-- ==== Sys2Proof/Word.lean ====
section
/-!
DEFINITION. The data types of the specification: bytes, the 48-bit frame, the two phases, the input
events and the record of named fields.
-/
namespace Sys2Proof

/-- A byte of the working frame buffer, or an event word (R18, R61). -/
abbrev Byte := BitVec 8

/-- The 48-bit image of a frame: bit `i` is the bit received at stream index `i` (R40, R62). -/
abbrev Frame := BitVec 48

/-- A timer register: `TIMER_W` = 16 bits (R5, R14, R15). -/
abbrev TimerWord := BitVec 16

/-- The `TimingPhase` (R13). -/
inductive Phase where
  | idle
  | reading
  deriving DecidableEq, Repr

/-- The numeric coding of the phase: `Idle` = 0, `Reading` = 1 (R13, decision D23). -/
def Phase.code : Phase → BitVec 1
  | .idle => 0
  | .reading => 1

/-- The seven external operations of R60, as the input events that start them. `edge d` is a rising
edge of `clock-in` with `data-in` at level `d`; `tick` has not yet been dispatched on the phase (R81). -/
inductive Event where
  | reset
  | cnt
  | tick
  | edge (d : Bool)
  | read
  | validq
  | regcb
  deriving DecidableEq, Repr

/-- A `JoystickSample`: the sixteen named fields of R110. A Boolean field is `true` exactly when its
bit is 1; no field is given any further meaning (R110, R116). -/
structure JoystickSample where
  fire     : Bool
  top      : Bool
  topUp    : Bool
  topDown  : Bool
  btnA     : Bool
  btnB     : Bool
  btnC     : Bool
  btnD     : Bool
  shift    : Bool
  x        : BitVec 10
  y        : BitVec 10
  m        : BitVec 7
  r        : BitVec 6
  head     : BitVec 4
  reserved : Bool
  parity   : Bool
  deriving DecidableEq, Repr

/-- The second name of source bit 2: `top` and `top_large` are one bit (R116, decision D24). -/
abbrev JoystickSample.topLarge (sample : JoystickSample) : Bool := sample.top

end Sys2Proof
end

