-- ==== Sys2Proof/Config.lean ====
section
/-!
DEFINITION. The parameters of the block (R5) and the free values of the model.
-/
namespace Sys2Proof.Config

/-- `N_BITS`: bits in a frame (R5). -/
def nBits : Nat := 48

/-- `N_BYTES`: bytes in the working frame buffer (R5). -/
def nBytes : Nat := 6

/-- The default of `T_IDLE` (R5). -/
def defaultTIdle : TimerWord := 8000

/-- The default of `T_READ` (R5). -/
def defaultTRead : TimerWord := 2000

/-- `PUB_RESET`: the content of the published sample after reset, any 48-bit value (R5, R20, U1).
OPEN in the spec, so it has no body here. Log entry 1. -/
opaque pubReset : Frame

/-- The free order of operations due at the same instant (R49, decision D10): the `n`-th word served
takes its operations in the order numbered `freeOrder n`. No body. Log entry 2. -/
opaque freeOrder : Nat → Nat

end Sys2Proof.Config
end

