-- ==== Sys2Proof/Syntax.lean ====
section
/-!
DEFINITION. The operations: one constructor per row of spec/opcode_table.json.
-/
namespace Sys2Proof

/-- An operation of the block (R60). The first ten are the rows of format `EV`; the others have no
event word: they are parts of an external operation's transition, and `encode` is a function for
test vectors that the hardware never performs (R114). -/
inductive Instr where
  /-- `RESET` (R170). -/
  | reset
  /-- `CNT`: one prescaled tick (R85). -/
  | cnt
  /-- `TICK.IDLE`: the Idle->Reading transition (R82). -/
  | tickIdle
  /-- `TICK.READING`: the Reading->Idle transition (R83). -/
  | tickReading
  /-- `EDGE0`: a rising edge of `clock-in`, `data-in` low (R100). -/
  | edge0
  /-- `EDGE1`: a rising edge of `clock-in`, `data-in` high (R100). -/
  | edge1
  /-- `READ`: the consumer's `read_sample()` (R132). -/
  | read
  /-- `VALIDQ`: the consumer's `is_sample_valid()` (R133). -/
  | validq
  /-- `REGCB`: the consumer's `register_callbacks`; its two observers are not in the word (R136). -/
  | regcb
  /-- `NOP`: a word with no strobe bit set (R65). -/
  | nop
  /-- `FRAME_RESET` (R84). -/
  | frameReset
  /-- `PACK(i, v)`: stream index `i`, bit value `v` (R111). -/
  | pack (i : BitVec 6) (v : Bool)
  /-- `DECODE(W)` (R112). -/
  | decode (w : Frame)
  /-- `ENCODE(sample)` (R114). -/
  | encode (sample : JoystickSample)
  /-- `PUBLISH` (R130). -/
  | publish
  /-- `NOTIFY_VALID` (R134). -/
  | notifyValid
  /-- `NOTIFY_INVALID` (R135). -/
  | notifyInvalid
  deriving DecidableEq, Repr

end Sys2Proof
end

