-- ==== Sys2Proof/WellFormed.lean ====
section
/-!
DEFINITION. Which terms of `Instr` are operations of the specification.
-/
namespace Sys2Proof

/-- `PACK` takes a stream index in 0..47 (R111, R43); every other operand has only legal values. -/
def Instr.wellFormed : Instr → Bool
  | .pack i _ => decide (i.toNat < Config.nBits)
  | .reset | .cnt | .tickIdle | .tickReading | .edge0 | .edge1 | .read | .validq | .regcb | .nop
  | .frameReset | .decode _ | .encode _ | .publish | .notifyValid | .notifyInvalid => true

end Sys2Proof
end

