-- ==== Sys2Proof/Decode.lean ====
section
/-!
DEFINITION. The two formats of the specification: the event word `EV` (R61, R64) and the frame `F48`
(R62, R110), each with its decoder and its encoder, and the builders of event scripts (R67, R68).
-/
namespace Sys2Proof

/-! ## Format EV -/

/-- The input events an event word carries (R61, R64). `rst` wins over everything; `dat` is read only
with `cke`. The list is in bit order; the order in which they are performed is open (R49). -/
def strobes (w : Byte) : List Event :=
  if w.getLsbD 5 then [.reset]
  else
    (if w.getLsbD 7 then [Event.regcb] else []) ++
    (if w.getLsbD 6 then [Event.cnt] else []) ++
    (if w.getLsbD 4 then [Event.tick] else []) ++
    (if w.getLsbD 3 then [Event.edge (w.getLsbD 2)] else []) ++
    (if w.getLsbD 1 then [Event.read] else []) ++
    (if w.getLsbD 0 then [Event.validq] else [])

/-- The operation an event performs when the block is in phase `ph`: `TICK` selects its arm by the
phase (R81), `EDGE` its row by the level of `data-in` (R64). -/
def select (ph : Phase) : Event → Instr
  | .reset => .reset
  | .cnt => .cnt
  | .tick =>
    match ph with
    | .idle => .tickIdle
    | .reading => .tickReading
  | .edge false => .edge0
  | .edge true => .edge1
  | .read => .read
  | .validq => .validq
  | .regcb => .regcb

/-- Why bytes do not decode. -/
inductive Reject where
  /-- There is no event word: no byte is left. -/
  | noEventWord
  /-- Fewer than the six bytes of a frame are left (`F48` is always 48 bits). -/
  | shortFrame
  deriving DecidableEq, Repr

/-- The next event word of a script, as the events it carries, with the rest of the script. Every byte
is legal (R65); only the empty script is rejected. -/
def decodeBytes : List Byte → Except Reject (List Event × List Byte)
  | [] => .error .noEventWord
  | w :: rest => .ok (strobes w, rest)

/-- The operations of one event word in phase `ph`: a word with no strobe bit set is a `NOP` (R64, R65). -/
def decodeWord (ph : Phase) (w : Byte) : List Instr :=
  match strobes w with
  | [] => [.nop]
  | es => es.map (select ph)

/-- The operation read from an event word of the opcode table, with `TICK` dispatched in the phase after
reset, `Idle` (log entry 6). Of a word with several strobes it answers the first in bit order. Rows
without an event word have none. -/
def decodeTableWord (nbits w : Nat) : Option Instr :=
  if nbits = 8 then (decodeWord .idle (BitVec.ofNat 8 w)).head? else none

/-- The canonical event word of an event (R61). -/
def encodeEvent : Event → Byte
  | .reset => 0x20
  | .cnt => 0x40
  | .tick => 0x10
  | .edge false => 0x08
  | .edge true => 0x0C
  | .read => 0x02
  | .validq => 0x01
  | .regcb => 0x80

/-- The event words of an operation: one canonical word for an external operation and for `NOP`, none
for an internal one (R61, R67). -/
def encode : Instr → List Byte
  | .reset => [0x20]
  | .cnt => [0x40]
  | .tickIdle => [0x10]
  | .tickReading => [0x10]
  | .edge0 => [0x08]
  | .edge1 => [0x0C]
  | .read => [0x02]
  | .validq => [0x01]
  | .regcb => [0x80]
  | .nop => [0x00]
  | .frameReset | .pack _ _ | .decode _ | .encode _ | .publish | .notifyValid | .notifyInvalid => []

/-! ## Format F48 -/

/-- `DECODE` as a function: each field is a fixed slice of the image (R110, R112). -/
def decodeFrame (w : Frame) : JoystickSample where
  fire     := w.getLsbD 0
  top      := w.getLsbD 1
  topUp    := w.getLsbD 2
  topDown  := w.getLsbD 3
  btnA     := w.getLsbD 4
  btnB     := w.getLsbD 5
  btnC     := w.getLsbD 6
  btnD     := w.getLsbD 7
  shift    := w.getLsbD 8
  x        := w.extractLsb' 9 10
  y        := w.extractLsb' 19 10
  m        := w.extractLsb' 29 7
  r        := w.extractLsb' 36 6
  head     := w.extractLsb' 42 4
  reserved := w.getLsbD 46
  parity   := w.getLsbD 47

/-- `ENCODE` as a function: the weighted sum of the fields (R114). -/
def encodeFrame (s : JoystickSample) : Frame :=
  BitVec.ofNat 48
    (s.fire.toNat + 2 * s.top.toNat + 4 * s.topUp.toNat + 8 * s.topDown.toNat
      + 16 * s.btnA.toNat + 32 * s.btnB.toNat + 64 * s.btnC.toNat + 128 * s.btnD.toNat
      + 2 ^ 8 * s.shift.toNat + 2 ^ 9 * s.x.toNat + 2 ^ 19 * s.y.toNat + 2 ^ 29 * s.m.toNat
      + 2 ^ 36 * s.r.toNat + 2 ^ 42 * s.head.toNat
      + 2 ^ 46 * s.reserved.toNat + 2 ^ 47 * s.parity.toNat)

/-- The image of six bytes, the first one lowest (R40). -/
def frameOfSix (b0 b1 b2 b3 b4 b5 : Byte) : Frame := b5 ++ b4 ++ b3 ++ b2 ++ b1 ++ b0

/-- A frame read from a sequence of bytes (R40, R117), rejected when fewer than six are left. -/
def frameOfBytes : List Byte → Except Reject (Frame × List Byte)
  | b0 :: b1 :: b2 :: b3 :: b4 :: b5 :: rest => .ok (frameOfSix b0 b1 b2 b3 b4 b5, rest)
  | _ => .error .shortFrame

/-- The six bytes of a frame, `wf[0]` first (R40, R117). -/
def bytesOfFrame (w : Frame) : List Byte :=
  [w.extractLsb' 0 8, w.extractLsb' 8 8, w.extractLsb' 16 8,
   w.extractLsb' 24 8, w.extractLsb' 32 8, w.extractLsb' 40 8]

/-! ## Event scripts and the pseudo-operations of R68 -/

/-- The encoding of a script: one event word per line (R67). -/
def encodeScript (events : List Event) : List Byte := events.map encodeEvent

/-- `EDGES n, v`: the first `n` bits of `v` in stream order. -/
def scriptEdges {k : Nat} (n : Nat) (v : BitVec k) : List Byte :=
  (List.range n).map fun i => encodeEvent (.edge (v.getLsbD i))

/-- `FRAME v`: 48 `EDGE` operations, first received bit first. -/
def scriptFrame (v : Frame) : List Byte := scriptEdges 48 v

/-- `WAIT n`: `n` times `CNT`. -/
def scriptWait (n : Nat) : List Byte := List.replicate n (encodeEvent .cnt)

/-- `REQUEST`: a `TICK` written where the phase is `Idle`. -/
def scriptRequest : List Byte := [encodeEvent .tick]

/-- `CLOSE`: a `TICK` written where the phase is `Reading`. -/
def scriptClose : List Byte := [encodeEvent .tick]

end Sys2Proof
end

