-- ==== Sys2Proof/Machine/State.lean ====
section
/-!
DEFINITION. The state of the block (R10), the model's own fields beside it, the reasons a step can
stop, and the state after reset (R170).
-/
namespace Sys2Proof.Machine

/-- The working frame buffer as cells (byte address, byte) in canonical form: addresses strictly rising
and below 6, no listed byte 0. An unlisted byte reads as its reset content, 0 (R18, R170). Log entry 11. -/
abbrev Memory := List Host.Cell

/-- A value an operation gives back (R6 `return`). -/
inductive Result where
  /-- `READ`: the 48-bit `JoystickSample` (R132). -/
  | sample (w : Frame)
  /-- `VALIDQ`: the validity bit (R133). -/
  | validity (b : Bool)
  /-- `DECODE` on its own: the record (R112). -/
  | fields (r : JoystickSample)
  /-- `ENCODE`: the image (R114). -/
  | image (w : Frame)
  deriving DecidableEq, Repr

/-- An entry of the output trace (R6, R24). -/
inductive Output where
  | trigFall
  | trigRise
  | notifyValid
  | notifyInvalid
  | returned (r : Result)
  deriving DecidableEq, Repr

/-- The two observers of `register_callbacks`, each as the requests it makes when it is invoked (R136,
R137). Log entry 8. -/
structure Observers where
  onValid   : List Event
  onInvalid : List Event
  deriving DecidableEq, Repr

/-- The parameters `T_IDLE` and `T_READ` (R5). Log entry 4. -/
structure Params where
  tIdle : TimerWord
  tRead : TimerWord
  deriving DecidableEq, Repr

/-- The state: first the ten elements of R10, then what R170's table adds to them, then the model's own
fields (inputs and parameters, which the step must find in its one argument). -/
structure State where
  /-- R13 -/
  phase       : Phase
  /-- R14 -/
  timerTop    : TimerWord
  /-- R15 -/
  timerCnt    : TimerWord
  /-- R16 -/
  edgeArmed   : Bool
  /-- R17: true is high -/
  timingOut   : Bool
  /-- R18: the bytes `wf[0..5]` -/
  wf          : Memory
  /-- R12 -/
  bitIndex    : BitVec 6
  /-- R19 -/
  complete    : Bool
  /-- R20: the 48-bit image of the published sample (decision D15) -/
  pub         : Frame
  /-- R21 -/
  sampleValid : Bool
  /-- R136: the registered observers; none before `REGCB` -/
  registered  : Option Observers
  /-- R24: the output trace, oldest first; log entry 7 -/
  trace       : List Output
  /-- model's own: the parameters `T_IDLE`, `T_READ`; log entry 4 -/
  params      : Params
  /-- model's own: the observers the consumer passes to `REGCB`; log entry 8 -/
  consumer    : Observers
  /-- model's own: the event words still to come from outside; log entry 3 -/
  script      : List Byte
  /-- model's own: events of the current word not yet performed, in their serial order; log entry 2 -/
  due         : List Event
  /-- model's own: requests of invoked observers not yet performed; log entry 8 -/
  reactions   : List Event
  /-- model's own: how many event words have been served; log entry 2 -/
  orderCount  : Nat
  /-- model's own: no `TICK` since reset, so `REGCB` may come; log entry 9 -/
  configOpen  : Bool
  deriving DecidableEq, Repr

/-- Why the machine stops with a fault. The block itself has no fault state (R150). -/
inductive Fault where
  /-- Raised by `PACK` alone, for a stream index outside 0..47, which the address map does not hold
  (R43, R45). `step` never raises it. Safe. -/
  | noSuchStreamIndex
  deriving DecidableEq, Repr

/-- Why an operation is refused. -/
inductive Refusal where
  /-- Raised by an arm of `exec` whose operation has no meaning yet. Safe. -/
  | notModelled (mnemonic : String)
  /-- Raised by `REGCB` after the first `TICK` (R136, U4). Safe. -/
  | lateRegistration
  /-- Raised by `REGCB` when observers are registered already (R65, U4). Safe. -/
  | repeatedRegistration
  /-- Raised by the fetch when an observer requests an operation other than `READ` or `VALIDQ` (R137,
  U8). Safe. -/
  | observerReentry
  /-- Raised by the fetch when `T_IDLE` or `T_READ` is 0 (R85, U10). Safe. -/
  | timerParameterOutOfRange
  deriving DecidableEq, Repr

/-- What an operation answers. -/
abbrev Answer := Host.Outcome State Fault Refusal

/-- The state after reset (R170), with the model's own fields at the values of log entries 2, 3, 4, 8
and 9. -/
def State.reset : State where
  phase       := .idle
  timerTop    := Config.defaultTIdle
  timerCnt    := 0
  edgeArmed   := false
  timingOut   := true
  wf          := []
  bitIndex    := 0
  complete    := false
  pub         := Config.pubReset
  sampleValid := false
  registered  := none
  trace       := []
  params      := { tIdle := Config.defaultTIdle, tRead := Config.defaultTRead }
  consumer    := { onValid := [], onInvalid := [] }
  script      := []
  due         := []
  reactions   := []
  orderCount  := 0
  configOpen  := true

end Sys2Proof.Machine
end

