-- ==== Sys2Proof/Machine/Flags.lean ====
section
/-!
DEFINITION. The flags of the block and their writers: `complete` (R19), `sample_valid` (R21), the arm of
the edge source (R16) and the guard of the sampler (R100, conflict C1).
-/
namespace Sys2Proof.Machine

/-- The sampler takes an edge: the source is armed and the frame is not complete (R100 steps 1 and 2). -/
def accepts (s : State) : Bool := s.edgeArmed && decide (s.bitIndex.toNat < Config.nBits)

/-- `complete <- 1` (R100 step 6). -/
def setComplete (s : State) : State := { s with complete := true }

/-- `sample_valid <- 1` (R130). -/
def setValid (s : State) : State := { s with sampleValid := true }

/-- `sample_valid <- 0` (R82 step 9). -/
def clearValid (s : State) : State := { s with sampleValid := false }

/-- `edge_armed <- a` (R82 steps 4 and 6, R83 step 4). -/
def setArmed (a : Bool) (s : State) : State := { s with edgeArmed := a }

/-- A `TICK` has happened: from now on a registration is late (R136, U4, decision D17). -/
def closeConfig (s : State) : State := { s with configOpen := false }

end Sys2Proof.Machine
end

