-- ==== Sys2Proof/Machine/Operands.lean ====
section
/-!
DEFINITION. The one addressing mode of the block (R40, R69): a stream index and the byte and bit it
names.
-/
namespace Sys2Proof.Machine

/-- The byte of the working frame that holds stream index `i` (R40). -/
def byteOf (i : Nat) : Nat := i / 8

/-- The bit position of stream index `i` in its byte; position `b` has weight `2^b` (R40). -/
def bitOf (i : Nat) : Nat := i % 8

/-- The stream indexes of the address map: 0 to 47 (R45). -/
def inMap (i : Nat) : Bool := decide (i < Config.nBits)

end Sys2Proof.Machine
end

