-- ==== Sys2Proof/Machine/Ops.lean ====
section
/-!
DEFINITION. The shared operations: the working frame buffer, the output trace, and the transitions the
operations are made of. The block takes no exception and returns from none (R150, R157, R158), so
there is no such operation here.
-/
namespace Sys2Proof.Machine

/-! ## The working frame buffer -/

/-- The byte at address `k`; an unlisted byte reads as its reset content, 0 (R18, R170). -/
def Memory.byte : Memory → Nat → Byte
  | [], _ => 0
  | (a, b) :: rest, k => if a = k then b else Memory.byte rest k

/-- A cell put where the rising order of addresses wants it. -/
def Memory.place (k : Nat) (v : Byte) : Memory → Memory
  | [] => [(k, v)]
  | (a, b) :: rest => if k < a then (k, v) :: (a, b) :: rest else (a, b) :: Memory.place k v rest

/-- Write one byte, keeping the canonical form: writing 0 removes the cell. -/
def Memory.put (m : Memory) (k : Nat) (v : Byte) : Memory :=
  let others := m.filter fun c => c.1 != k
  if v = 0 then others else Memory.place k v others

/-- The canonical form from address `lo` on. -/
def Memory.wfFrom : Nat → Memory → Bool
  | _, [] => true
  | lo, (a, b) :: rest =>
    decide (lo ≤ a) && decide (a < Config.nBytes) && b != 0 && Memory.wfFrom (a + 1) rest

/-- The canonical form: addresses strictly rising, all in 0..5, no listed byte 0. -/
def Memory.wf (m : Memory) : Bool := Memory.wfFrom 0 m

/-- `WF`: the 48-bit image of the buffer (R40). -/
def Memory.image (m : Memory) : Frame :=
  frameOfSix (Memory.byte m 0) (Memory.byte m 1) (Memory.byte m 2)
    (Memory.byte m 3) (Memory.byte m 4) (Memory.byte m 5)

/-- `BitSet(i)`: `wf[i div 8][i mod 8] <- 1` (R6, R111). -/
def Memory.setBit (m : Memory) (i : Nat) : Memory :=
  Memory.put m (byteOf i) (Memory.byte m (byteOf i) ||| (1#8 <<< bitOf i))

/-- `WF <- 0` (R6, R84). -/
def Memory.cleared : Memory := []

/-- `PACK(i, v)` on the buffer: a 1 sets the bit, a 0 writes nothing (R111). -/
def packMemory (i : Nat) (v : Bool) (m : Memory) : Memory := if v then Memory.setBit m i else m

/-! ## The output trace and the observers -/

/-- `emit E` (R6). -/
def emit (e : Output) (s : State) : State := { s with trace := s.trace ++ [e] }

/-- The requests of an invoked observer are taken after the emitting transition (R137). -/
def react (requests : List Event) (s : State) : State := { s with reactions := s.reactions ++ requests }

/-- The requests of `on_valid`, if it is registered; an absent observer does nothing (R136, U5). -/
def onValidRequests (s : State) : List Event :=
  match s.registered with
  | some o => o.onValid
  | none => []

/-- The requests of `on_invalid`, if it is registered; an absent observer does nothing (R136, U5). -/
def onInvalidRequests (s : State) : List Event :=
  match s.registered with
  | some o => o.onInvalid
  | none => []

/-- `NOTIFY_VALID` (R134). -/
def notifyValid (s : State) : State := react (onValidRequests s) (emit .notifyValid s)

/-- `NOTIFY_INVALID` (R135). -/
def notifyInvalid (s : State) : State := react (onInvalidRequests s) (emit .notifyInvalid s)

/-! ## Frame Codec and Snapshot Synchronizer -/

/-- `PACK(i, v)` (R111). -/
def pack (i : Nat) (v : Bool) (s : State) : State := { s with wf := packMemory i v s.wf }

/-- `PUBLISH` (R130): `pub` is held as the image of the decoded record (decision D15). -/
def publish (s : State) : State := setValid { s with pub := Memory.image s.wf }

/-! ## Timing Controller -/

/-- `FRAME_RESET` (R84). -/
def frameReset (s : State) : State := { s with bitIndex := 0, wf := Memory.cleared, complete := false }

/-- Program the timer for a phase of `top` prescaled ticks, its count restarted (R82, R83 steps 1 and 2). -/
def startTimer (top : TimerWord) (s : State) : State := { s with timerTop := top, timerCnt := 0 }

/-- `TICK` in `Idle`, the Idle->Reading transition, in the order of the steps of R82. -/
def tickIdle (s : State) : State :=
  let s := startTimer s.params.tRead (closeConfig s)
  let s := { s with phase := .reading }
  let s := setArmed false s
  let s := emit .trigFall { s with timingOut := false }
  let s := setArmed true s
  let s := emit .trigRise { s with timingOut := true }
  let s := notifyInvalid (clearValid s)
  frameReset s

/-- `TICK` in `Reading`, the Reading->Idle transition, in the order of the steps of R83. -/
def tickReading (s : State) : State :=
  let s := startTimer s.params.tIdle (closeConfig s)
  let s := { s with phase := .idle }
  setArmed false s

/-- `TICK`, dispatched on the phase (R81). -/
def tick (s : State) : State :=
  match s.phase with
  | .idle => tickIdle s
  | .reading => tickReading s

/-- `CNT` (R85, the pseudocode; its worked example is one tick shorter, log entry 23). The sum and the
comparison are exact. -/
def countTick (s : State) : State :=
  if s.timerCnt.toNat + 1 ≥ s.timerTop.toNat then tick s else { s with timerCnt := s.timerCnt + 1 }

/-! ## Edge Sampler -/

/-- Steps 5 to 8 of R100: at the 48th bit the frame is published and the consumer notified. -/
def completeFrame (s : State) : State :=
  if s.bitIndex.toNat = Config.nBits then notifyValid (publish (setComplete s)) else s

/-- Steps 3 to 8 of R100: store the bit at `bit_index`, post-increment, detect completion. -/
def sampleBit (d : Bool) (s : State) : State :=
  let s := pack s.bitIndex.toNat d s
  completeFrame { s with bitIndex := s.bitIndex + 1 }

/-- `EDGE d` (R100): an edge that is not accepted changes nothing and leaves no trace (R16, R23). -/
def edge (d : Bool) (s : State) : State := if accepts s then sampleBit d s else s

/-! ## Reset -/

/-- `RESET` (R170): every element at its reset value, no observer registered, the trace empty, what was
due with it dropped (R156); the parameters and the world outside stay (log entries 7 and 21). -/
def resetBlock (s : State) : State :=
  { State.reset with
    timerTop := s.params.tIdle
    params := s.params
    consumer := s.consumer
    script := s.script
    orderCount := s.orderCount }

end Sys2Proof.Machine
end

