-- ==== Sys2Proof/Machine/EdgeSampler.lean ====
section
/-!
DEFINITION. The operations of the Edge Sampler (41_edge_sampler.md).
-/
namespace Sys2Proof.Machine

/-- `EDGE 0` (R100). -/
def execEdge0 (s : State) : Answer := .next (edge false s)

/-- `EDGE 1` (R100). -/
def execEdge1 (s : State) : Answer := .next (edge true s)

end Sys2Proof.Machine
end

