-- ==== Sys2Proof/Machine/FrameCodec.lean ====
section
/-!
DEFINITION. The operations of the Frame Codec (42_frame_codec.md).
-/
namespace Sys2Proof.Machine

/-- `PACK(i, v)` (R111). The address map has no index of 48 or more (R43, R45). -/
def execPack (i : BitVec 6) (v : Bool) (s : State) : Answer :=
  if inMap i.toNat then .next (pack i.toNat v s) else .fault .noSuchStreamIndex

/-- `DECODE(W)` (R112): no state is written; the record is returned. -/
def execDecode (w : Frame) (s : State) : Answer := .next (emit (.returned (.fields (decodeFrame w))) s)

/-- `ENCODE(sample)` (R114): no state is written; the image is returned. -/
def execEncode (sample : JoystickSample) (s : State) : Answer :=
  .next (emit (.returned (.image (encodeFrame sample))) s)

end Sys2Proof.Machine
end

