-- ==== Sys2Proof/Machine/SnapshotSynchronizer.lean ====
section
/-!
DEFINITION. The operations of the Snapshot Synchronizer (43_snapshot_synchronizer.md).
-/
namespace Sys2Proof.Machine

/-- `PUBLISH` (R130). -/
def execPublish (s : State) : Answer := .next (publish s)

/-- `READ` (R132): the whole of `pub`, whatever `sample_valid` is. -/
def execRead (s : State) : Answer := .next (emit (.returned (.sample s.pub)) s)

/-- `VALIDQ` (R133). -/
def execValidq (s : State) : Answer := .next (emit (.returned (.validity s.sampleValid)) s)

/-- `NOTIFY_VALID` (R134). -/
def execNotifyValid (s : State) : Answer := .next (notifyValid s)

/-- `NOTIFY_INVALID` (R135). -/
def execNotifyInvalid (s : State) : Answer := .next (notifyInvalid s)

/-- `REGCB` (R136): once, before the first `TICK`; a late or repeated one is refused (U4, decision D17). -/
def execRegcb (s : State) : Answer :=
  if s.registered.isSome then .refused .repeatedRegistration
  else if s.configOpen then .next { s with registered := some s.consumer }
  else .refused .lateRegistration

end Sys2Proof.Machine
end

