-- ==== Sys2Proof/Machine/Startup.lean ====
section
/-!
DEFINITION. `RESET` (70_reset_and_hazards.md) and the word without an event.
-/
namespace Sys2Proof.Machine

/-- `RESET` (R170). -/
def execReset (s : State) : Answer := .next (resetBlock s)

/-- `NOP`: no event, no state change (R61, R65). -/
def execNop (s : State) : Answer := .next s

end Sys2Proof.Machine
end

