-- ==== Sys2Proof/Machine/TimingController.lean ====
section
/-!
DEFINITION. The operations of the Timing Controller (40_timing_controller.md).
-/
namespace Sys2Proof.Machine

/-- `CNT` (R85). -/
def execCnt (s : State) : Answer := .next (countTick s)

/-- `TICK` in `Idle` (R82). The phase has selected this arm before (R81, `select`). -/
def execTickIdle (s : State) : Answer := .next (tickIdle s)

/-- `TICK` in `Reading` (R83). The phase has selected this arm before (R81, `select`). -/
def execTickReading (s : State) : Answer := .next (tickReading s)

/-- `FRAME_RESET` (R84). -/
def execFrameReset (s : State) : Answer := .next (frameReset s)

end Sys2Proof.Machine
end

