-- ==== Sys2Proof/Machine/Dispatch.lean ====
section
/-!
DEFINITION. One arm per operation.
-/
namespace Sys2Proof.Machine

def exec (i : Instr) (s : State) : Host.Outcome State Fault Refusal :=
  match i with
  | .reset => Sys2Proof.Machine.execReset s
  | .cnt => Sys2Proof.Machine.execCnt s
  | .tickIdle => Sys2Proof.Machine.execTickIdle s
  | .tickReading => Sys2Proof.Machine.execTickReading s
  | .edge0 => Sys2Proof.Machine.execEdge0 s
  | .edge1 => Sys2Proof.Machine.execEdge1 s
  | .read => Sys2Proof.Machine.execRead s
  | .validq => Sys2Proof.Machine.execValidq s
  | .regcb => Sys2Proof.Machine.execRegcb s
  | .nop => Sys2Proof.Machine.execNop s
  | .frameReset => Sys2Proof.Machine.execFrameReset s
  | .pack index v => Sys2Proof.Machine.execPack index v s
  | .decode w => Sys2Proof.Machine.execDecode w s
  | .encode sample => Sys2Proof.Machine.execEncode sample s
  | .publish => Sys2Proof.Machine.execPublish s
  | .notifyValid => Sys2Proof.Machine.execNotifyValid s
  | .notifyInvalid => Sys2Proof.Machine.execNotifyInvalid s

end Sys2Proof.Machine
end

