-- ==== Sys2Proof/Machine/Fetch.lean ====
section
/-!
DEFINITION. Which operation comes next: the block fetches no instructions (R53); an operation is selected
by an input event (R60, R64), and the operations of all agents form one total order (R47).
-/
namespace Sys2Proof.Machine

/-- The parameters are at least 1 (R85, U10); that they are below `2^TIMER_W` is their width. -/
def paramsInRange (p : Params) : Bool := p.tIdle != 0 && p.tRead != 0

/-- What an observer may request from inside a notification (R137). -/
def observerMay : Event → Bool
  | .read | .validq => true
  | .reset | .cnt | .tick | .edge _ | .regcb => false

/-- `e` put into a list at position `k`, at the end if the list is shorter. -/
def insertAt (e : Event) : List Event → Nat → List Event
  | [], _ => [e]
  | x :: xs, 0 => e :: x :: xs
  | x :: xs, k + 1 => x :: insertAt e xs k

/-- The serial order numbered `n` of the events of one word: every order has a number (R49). -/
def serialOrder : List Event → Nat → List Event
  | [], _ => []
  | e :: es, n => insertAt e (serialOrder es (n / (es.length + 1))) (n % (es.length + 1))

/-- The next operation, with the state it runs in; or why there is none. -/
inductive Fetched where
  | run (i : Instr) (s : State)
  | stop (r : Refusal)
  deriving DecidableEq, Repr

/-- Run the first of a list of events and leave the others due; no event is a `NOP` (R64, R81). -/
def runFirst (events : List Event) (s : State) : Fetched :=
  match events with
  | [] => .run .nop s
  | e :: rest => .run (select s.phase e) { s with due := rest }

/-- The next event word of the script, served in a free order (R49, R64). A script that has ended brings
no event. -/
def fetchWord (s : State) : Fetched :=
  match decodeBytes s.script with
  | .error _ => .run .nop s
  | .ok (events, rest) =>
    runFirst (serialOrder events (Config.freeOrder s.orderCount))
      { s with script := rest, orderCount := s.orderCount + 1 }

/-- The next operation in the total order: first the requests of an observer just invoked (R134, R137),
then what is left of the current word (R64), then the next word. -/
def fetch (s : State) : Fetched :=
  if paramsInRange s.params then
    match s.reactions with
    | e :: rest =>
      if observerMay e then .run (select s.phase e) { s with reactions := rest } else .stop .observerReentry
    | [] =>
      match s.due with
      | [] => fetchWord s
      | events => runFirst events s
  else .stop .timerParameterOutOfRange

/-- The state with an event word placed so that the next step serves it: first in the script, with
nothing due before it. Only the 8-bit format has words a step can serve. -/
def placeWord (s : State) (nbits w : Nat) : State :=
  if nbits = 8 then { s with script := BitVec.ofNat 8 w :: s.script, due := [], reactions := [] } else s

end Sys2Proof.Machine
end

