-- ==== Sys2Proof/Machine/Step.lean ====
section
/-!
DEFINITION. One step: one operation of the total order (R47).
-/
namespace Sys2Proof.Machine

/-- Fetch the next operation and run it. -/
def step (s : State) : Host.Outcome State Fault Refusal :=
  match fetch s with
  | .run i t => exec i t
  | .stop r => .refused r

/-- The state in which the next step serves the event word `w`. -/
def State.withFetchWord (s : State) (nbits w : Nat) : State := placeWord s nbits w

end Sys2Proof.Machine
end

