-- ==== Sys2Proof/Safety.lean ====
section
/-!
DEFINITION. The words the statements are made of: the invariants of R25, the execution contexts of
R160, and sequences of operations.
-/
namespace Sys2Proof.Machine

/-! ## Invariants -/

/-- The duration programmed for the phase the block is in (R14). -/
def phaseLength (s : State) : TimerWord :=
  match s.phase with
  | .idle => s.params.tIdle
  | .reading => s.params.tRead

/-- The invariants 1 to 7 of R25, the precondition on the parameters (R85, U10) and the canonical form of
the memory. Invariant 8 speaks about the past: it is stated of the step. -/
structure State.Inv (s : State) : Prop where
  params      : paramsInRange s.params = true
  memory      : Memory.wf s.wf = true
  indexBound  : s.bitIndex.toNat ≤ Config.nBits
  completeIff : s.complete = true ↔ s.bitIndex.toNat = Config.nBits
  armedIff    : s.edgeArmed = true ↔ s.phase = .reading
  timerTop    : s.timerTop = phaseLength s
  timerCnt    : s.timerCnt.toNat < s.timerTop.toNat
  timingHigh  : s.timingOut = true
  beyondIndex : ∀ i : Nat, s.bitIndex.toNat ≤ i → (Memory.image s.wf).getLsbD i = false
  validSample : s.sampleValid = true → s.bitIndex.toNat = Config.nBits ∧ s.pub = Memory.image s.wf

/-- The next step serves the word that stands first in the script: no observer has a request left and
nothing of an earlier word is due. -/
def ready (s : State) : Prop := paramsInRange s.params = true ∧ s.reactions = [] ∧ s.due = []

/-! ## Contexts -/

/-- The execution contexts of R160. -/
inductive Context where
  | timer
  | edge
  | consumer
  deriving DecidableEq, Repr

/-- The context an operation belongs to (R160). `RESET` belongs to none, nor do the word without an event
and the test-only `ENCODE`. -/
def contextOf : Instr → Option Context
  | .cnt | .tickIdle | .tickReading | .frameReset | .notifyInvalid => some .timer
  | .edge0 | .edge1 | .pack _ _ | .decode _ | .publish | .notifyValid => some .edge
  | .read | .validq | .regcb => some .consumer
  | .reset | .nop | .encode _ => none

/-! ## Sequences of operations -/

/-- Operations performed one after another, stopping at the first fault or refusal. -/
def runAll : List Instr → State → Answer
  | [], s => .next s
  | i :: is, s =>
    match exec i s with
    | .next t => runAll is t
    | .fault f => .fault f
    | .refused r => .refused r

/-- `EDGE d` as an operation: one row of the table for each level of `data-in` (R64). -/
def edgeOp : Bool → Instr
  | false => .edge0
  | true => .edge1

/-- What may fall inside a reading phase without ending it: `EDGE`, `READ`, `VALIDQ` (R113), a word without
an event (R65), and a `CNT` that does not expire the timer (R85; `countsFit`). -/
def inWindow : Instr → Bool
  | .edge0 | .edge1 | .read | .validq | .nop | .cnt => true
  | .reset | .tickIdle | .tickReading | .regcb | .frameReset | .pack _ _ | .decode _
  | .encode _ | .publish | .notifyValid | .notifyInvalid => false

/-- No `CNT` of the window expires the timer: there is none (the untimed form, R86), or there are fewer than
`T_READ` of them (R85). -/
def countsFit (s : State) (ops : List Instr) : Prop :=
  ops.count .cnt = 0 ∨ ops.count .cnt < s.params.tRead.toNat

/-- The operation opens a reading phase: `TICK` in `Idle`, or the `CNT` that performs it (R82, R85). -/
def opensWindow (s : State) (i : Instr) : Prop :=
  i = .tickIdle ∨ (i = .cnt ∧ s.phase = .idle ∧ s.timerTop.toNat ≤ s.timerCnt.toNat + 1)

/-- The operation closes the reading phase after the operations of the window: `TICK` in `Reading`, or the
`T_READ`-th `CNT` (R83, R85). -/
def closesWindow (s : State) (ops : List Instr) (i : Instr) : Prop :=
  i = .tickReading ∨ (i = .cnt ∧ ops.count .cnt + 1 = s.params.tRead.toNat)

/-- The levels of `data-in` at the edges of a sequence of operations, first edge first. -/
def edgeBits : List Instr → List Bool
  | [] => []
  | .edge0 :: is => false :: edgeBits is
  | .edge1 :: is => true :: edgeBits is
  | _ :: is => edgeBits is

/-- The bits of a frame in stream order (R62). -/
def streamOf (v : Frame) : List Bool := (List.range Config.nBits).map v.getLsbD

/-- `n` steps of the machine, stopping at the first fault or refusal. -/
def runSteps : Nat → State → Answer
  | 0, s => .next s
  | n + 1, s =>
    match step s with
    | .next t => runSteps n t
    | .fault f => .fault f
    | .refused r => .refused r

/-- The requests of an invoked observer performed one after another; one it may not make is refused (R137). -/
def serveRequests : List Event → State → Answer
  | [], s => .next s
  | e :: es, s =>
    if observerMay e then
      match exec (select s.phase e) s with
      | .next t => serveRequests es t
      | .fault f => .fault f
      | .refused r => .refused r
    else .refused .observerReentry

/-- Events performed one after another, each dispatched in the phase it finds (R81) and followed by the
requests of the observers it invokes (R137). -/
def performAll : List Event → State → Answer
  | [], s => .next s
  | e :: es, s =>
    match exec (select s.phase e) s with
    | .next t =>
      match serveRequests t.reactions { t with reactions := [] } with
      | .next u => performAll es u
      | .fault f => .fault f
      | .refused r => .refused r
    | .fault f => .fault f
    | .refused r => .refused r

/-- The buffer `m'` is `m` with the bit `v` stored at stream index `i` and nothing else changed (R40,
R111): bit by bit on the image, and every byte but the addressed one as before. -/
def storesBit (m m' : Memory) (i : Nat) (v : Bool) : Prop :=
  (∀ j, (Memory.image m').getLsbD j = ((Memory.image m).getLsbD j || (decide (j = i) && v))) ∧
  (∀ k, k ≠ byteOf i → Memory.byte m' k = Memory.byte m k)

end Sys2Proof.Machine
end

