-- ==== Sys2Proof/Certificates/Slice0/Obligations.lean ====
section
/-!
DEFINITION. The statements about the block, for the provers.
-/
open Sys2Proof Sys2Proof.Machine

/-! ## Which operation a step performs -/

/-- 30_encoding.md section 4 (R64), 20_memory.md section 6 (R47): a step serves the event word that stands
first in the script by performing its operation; it moves the model's own queues and nothing else. A word
without a strobe bit, and the end of the script, are a `NOP` (log entry 3). -/
def Obligations.StepRunsTheDecodedOperation : Prop :=
  (∀ (s : State) (w : Byte) (rest : List Byte) (e : Event),
    ready s → s.script = w :: rest → strobes w = [e] →
      step s = exec (select s.phase e)
        { s with script := rest, orderCount := s.orderCount + 1, due := [] }) ∧
  (∀ (s : State) (w : Byte) (rest : List Byte),
    ready s → s.script = w :: rest → strobes w = [] →
      step s = exec .nop { s with script := rest, orderCount := s.orderCount + 1 }) ∧
  (∀ s : State, ready s → s.script = [] → step s = exec .nop s)

/-- 30_encoding.md section 4 (R64), 20_memory.md section 6 (R49): a step that takes a word performs one of
its events and leaves all the others due, in some order. -/
def Obligations.FirstOfTheSimultaneousEventsRunsAndTheRestAreDue : Prop :=
  ∀ (s : State) (w : Byte) (rest : List Byte),
    ready s → s.script = w :: rest → strobes w ≠ [] →
      ∃ e es, (e :: es).Perm (strobes w) ∧
        step s = exec (select s.phase e)
          { s with script := rest, orderCount := s.orderCount + 1, due := es }

/-- 30_encoding.md section 4 (R64), 20_memory.md section 6 (R47, R49): from a word with events, some
number of steps performs all of them, one after another in some order, each dispatched in the phase it finds and
followed by the requests of the observers it invokes (log entry 8). Where one of them is refused (a
`REGCB` made late by a `TICK` of the same word, an observer's forbidden request), the steps stop with
that refusal. -/
def Obligations.EventsOfAWordAreAllPerformed : Prop :=
  ∀ (s : State) (w : Byte) (rest : List Byte),
    ready s → s.script = w :: rest → strobes w ≠ [] →
      ∃ order n, order.Perm (strobes w) ∧ order.length ≤ n ∧
        runSteps n s = performAll order { s with script := rest, orderCount := s.orderCount + 1 }

/-- 20_memory.md section 6 (R49): no order of simultaneous operations is left out: every order of a word's
events has a number the free order can give. -/
def Obligations.EveryOrderIsAServingOrder : Prop :=
  ∀ (events order : List Event), order.Perm events → ∃ n, serialOrder events n = order

/-- 30_encoding.md section 4 (R64): what is still due from a word is performed before the next word. -/
def Obligations.DueEventsPrecedeTheNextWord : Prop :=
  ∀ (s : State) (e : Event) (rest : List Event),
    paramsInRange s.params = true → s.reactions = [] → s.due = e :: rest →
      step s = exec (select s.phase e) { s with due := rest }

/-- 43_snapshot_synchronizer.md section 5 (R134, R137), U8: the requests of an observer just invoked come
before every other operation (log entry 8); `READ` and `VALIDQ` are performed, any other is refused. -/
def Obligations.ObserverRequestsComeFirst : Prop :=
  ∀ (s : State) (e : Event) (rest : List Event),
    paramsInRange s.params = true → s.reactions = e :: rest →
      (e = .read → step s = exec .read { s with reactions := rest }) ∧
      (e = .validq → step s = exec .validq { s with reactions := rest }) ∧
      (e ≠ .read → e ≠ .validq → step s = .refused .observerReentry)

/-- 30_encoding.md section 4 (R64): if the reset bit is 1, only `RESET` is performed, whatever else the
word carries. -/
def Obligations.ResetWinsOverEveryOtherEvent : Prop :=
  ∀ (s : State) (w : Byte) (rest : List Byte),
    ready s → s.script = w :: rest → w.getLsbD 5 = true →
      step s = exec .reset { s with script := rest, orderCount := s.orderCount + 1, due := [] }

/-- 40_timing_controller.md section 4 (R85), U10: with `T_IDLE` or `T_READ` equal to 0 no operation is
performed. -/
def Obligations.TimerParameterZeroIsRefused : Prop :=
  ∀ s : State, s.params.tIdle = 0 ∨ s.params.tRead = 0 → step s = .refused .timerParameterOutOfRange

/-- 60_exceptions.md section 1 (R150): no step faults; and it refuses only what the spec says a model
refuses. -/
def Obligations.StepNeverFaults : Prop :=
  ∀ s : State, (∀ f, step s ≠ .fault f) ∧
    (∀ r, step s = .refused r →
      r = .lateRegistration ∨ r = .repeatedRegistration ∨ r = .observerReentry ∨
        r = .timerParameterOutOfRange)

/-- 30_encoding.md sections 2, 4 and 5 (R61, R64, R65), for every event word: with the reset bit set it
carries `RESET` alone; otherwise each event is carried exactly when its strobe bit is 1, once, and
nothing else is, the data bit being read with the clock edge only. In a phase the word decodes to the
operations of its events, or to a `NOP`. Then words written out bit by bit from the table of R61, with
the operations they carry in the two phases. -/
def Obligations.TableWordsDecodeToTheirOperations : Prop :=
  (∀ w : Byte, w.getLsbD 5 = true → strobes w = [.reset]) ∧
  (∀ w : Byte, w.getLsbD 5 = false →
    (strobes w).Nodup ∧ Event.reset ∉ strobes w ∧
    (Event.regcb ∈ strobes w ↔ w.getLsbD 7 = true) ∧
    (Event.cnt ∈ strobes w ↔ w.getLsbD 6 = true) ∧
    (Event.tick ∈ strobes w ↔ w.getLsbD 4 = true) ∧
    (∀ d, Event.edge d ∈ strobes w ↔ w.getLsbD 3 = true ∧ d = w.getLsbD 2) ∧
    (Event.read ∈ strobes w ↔ w.getLsbD 1 = true) ∧
    (Event.validq ∈ strobes w ↔ w.getLsbD 0 = true)) ∧
  (∀ (ph : Phase) (w : Byte),
    (strobes w ≠ [] → decodeWord ph w = (strobes w).map (select ph)) ∧
    (strobes w = [] → decodeWord ph w = [.nop])) ∧
  decodeWord .idle 0b00100000#8 = [.reset] ∧ decodeWord .idle 0b01000000#8 = [.cnt] ∧
  decodeWord .idle 0b00010000#8 = [.tickIdle] ∧ decodeWord .reading 0b00010000#8 = [.tickReading] ∧
  decodeWord .reading 0b00001000#8 = [.edge0] ∧ decodeWord .reading 0b00001100#8 = [.edge1] ∧
  decodeWord .idle 0b00000010#8 = [.read] ∧ decodeWord .idle 0b00000001#8 = [.validq] ∧
  decodeWord .idle 0b10000000#8 = [.regcb] ∧ decodeWord .idle 0b00000000#8 = [.nop] ∧
  decodeWord .idle 0b00000100#8 = [.nop]

/-! ## Reset -/

/-- 70_reset_and_hazards.md section 1 (the pseudocode of `RESET`, R170): the ten elements at their reset
values, from any state. All of them but `timing_out` are the spec's own choice (decisions D1 to D4, log
entry 14), and `PUB_RESET` is open (log entry 1). That the trace is emptied, the registration undone and
the queues dropped, while what belongs to the environment stays, are log entries 7 and 21; that `REGCB`
may come again (`configOpen`) is log entry 9. -/
def Obligations.ResetPutsEveryElementAtItsResetValue : Prop :=
  (∀ s : State, ∃ t, exec .reset s = .next t ∧
    t.phase = .idle ∧ t.timerTop = s.params.tIdle ∧ t.timerCnt = 0 ∧ t.edgeArmed = false ∧
    t.timingOut = true ∧ t.bitIndex = 0 ∧ (∀ k, Memory.byte t.wf k = 0) ∧ t.complete = false ∧
    t.sampleValid = false ∧ t.pub = Config.pubReset ∧
    t.registered = none ∧ t.configOpen = true ∧ t.trace = [] ∧ t.due = [] ∧ t.reactions = [] ∧
    t.params = s.params ∧ t.consumer = s.consumer ∧ t.script = s.script ∧ t.orderCount = s.orderCount) ∧
  exec .reset State.reset = .next State.reset

/-- 10_state.md section 11 (R25): the invariants hold after reset. -/
def Obligations.InvariantsHoldAtReset : Prop :=
  State.reset.Inv ∧ ∀ s : State, paramsInRange s.params = true → ∀ t, exec .reset s = .next t → t.Inv

/-! ## Timing Controller -/

/-- 40_timing_controller.md section 2 (R81): the word 0x10 leads to the one arm that the phase selects, and
every `TICK` turns the phase over, which R81 marks as derived from R82 and R83. That a `CNT` at the
expiry is that `TICK` rests on the spec's own counter: R85, decision D12, log entry 20. -/
def Obligations.TickIsDispatchedOnThePhase : Prop :=
  strobes 0x10 = [.tick] ∧
  ∀ s : State,
    (s.phase = .idle → select s.phase .tick = .tickIdle) ∧
    (s.phase = .reading → select s.phase .tick = .tickReading) ∧
    (s.timerTop.toNat ≤ s.timerCnt.toNat + 1 → exec .cnt s = exec (select s.phase .tick) s) ∧
    ∃ t, exec (select s.phase .tick) s = .next t ∧ t.phase ≠ s.phase

/-- 40_timing_controller.md section 2 (the post-state of `TICK` in `Idle`), from any state. The trigger pulse
is emitted with its edges in order; where `NOTIFY_INVALID` stands among them is not claimed (decision D7).
That the count restarts is the spec's own decision D12, log entry 20. -/
def Obligations.TickIdleOpensTheFrame : Prop :=
  ∀ s : State, ∃ t out, exec .tickIdle s = .next t ∧
    t.trace = s.trace ++ out ∧ out.Perm [.trigFall, .trigRise, .notifyInvalid] ∧
    out.filter (fun o => o != .notifyInvalid) = [.trigFall, .trigRise] ∧
    (∀ k, Memory.byte t.wf k = 0) ∧
    t = { s with
          phase := .reading, timerTop := s.params.tRead, timerCnt := 0, edgeArmed := true,
          timingOut := true, wf := t.wf, bitIndex := 0, complete := false, sampleValid := false,
          trace := t.trace, reactions := s.reactions ++ onInvalidRequests s, configOpen := false }

/-- 40_timing_controller.md section 2 (R83): the Reading->Idle transition writes these four elements and emits
nothing. That it disarms the edge source is not in the source's list for this arm: it is the spec's own
resolution of conflict C2, decision D6, log entry 13. That the count restarts is its decision D12, log
entry 20. (Of the model's own `configOpen` nothing is said here.) -/
def Obligations.TickReadingClosesTheWindow : Prop :=
  strobes 0x10 = [.tick] ∧ select .reading .tick = .tickReading ∧
  ∀ s : State, ∃ t, exec .tickReading s = .next t ∧
    t = { s with
          phase := .idle, timerTop := s.params.tIdle, timerCnt := 0, edgeArmed := false,
          configOpen := t.configOpen }

/-- 40_timing_controller.md section 3: `FRAME_RESET` clears the working frame and touches nothing else. -/
def Obligations.FrameResetClearsTheWorkingFrame : Prop :=
  ∀ s : State, ∃ t, exec .frameReset s = .next t ∧
    (∀ k, Memory.byte t.wf k = 0) ∧ Memory.image t.wf = 0 ∧
    t = { s with bitIndex := 0, wf := t.wf, complete := false }

/-- 40_timing_controller.md section 4 (the pseudocode of `CNT`, R85): the spec's own counter, decision D12, log
entry 20. R85's worked example counts one tick fewer than its pseudocode: log entry 23. -/
def Obligations.CntCountsOrTicks : Prop :=
  ∀ s : State,
    (s.timerCnt.toNat + 1 < s.timerTop.toNat →
      ∃ t, exec .cnt s = .next t ∧ t.timerCnt.toNat = s.timerCnt.toNat + 1 ∧
        t = { s with timerCnt := t.timerCnt }) ∧
    (s.timerTop.toNat ≤ s.timerCnt.toNat + 1 →
      ∃ t, exec .cnt s = .next t ∧ exec (select s.phase .tick) s = .next t)

/-- 40_timing_controller.md section 4 (consequences of `CNT`): a phase entered with the count at 0 ends at
the `timer_top`-th `CNT` and not before. That it is exactly that `CNT` is the spec's own decision D12, log
entry 20, with log entry 23. -/
def Obligations.PhaseLastsItsProgrammedLength : Prop :=
  ∀ s : State, s.timerCnt = 0 → 0 < s.timerTop.toNat →
    (∀ n, n < s.timerTop.toNat →
      runAll (List.replicate n .cnt) s = .next { s with timerCnt := BitVec.ofNat 16 n }) ∧
    runAll (List.replicate s.timerTop.toNat .cnt) s = exec (select s.phase .tick) s

/-- 40_timing_controller.md section 4 (consequences of `CNT`): from the start of an Idle phase,
`T_IDLE + T_READ` prescaled ticks are one request and one close. The length of the cycle in `CNT`s is the
spec's own decision D12, log entry 20, with log entry 23. -/
def Obligations.PollingCycleIsTheSumOfThePhases : Prop :=
  ∀ s : State, s.Inv → s.phase = .idle → s.timerCnt = 0 →
    runAll (List.replicate (s.params.tIdle.toNat + s.params.tRead.toNat) .cnt) s =
      runAll [.tickIdle, .tickReading] s

/-- R154: a device that never clocks gets requests for ever, with an invalidate
each cycle, no valid notification, and the published sample untouched. -/
def Obligations.SilentDeviceGetsInvalidatesOnly : Prop :=
  ∀ (s : State) (n : Nat), s.phase = .idle →
    ∃ t, runAll (List.replicate n [Instr.tickIdle, Instr.tickReading]).flatten s = .next t ∧
      t.phase = .idle ∧ t.pub = s.pub ∧ (s.sampleValid = false → t.sampleValid = false) ∧
      (0 < n → t.sampleValid = false) ∧
      t.trace.count .notifyInvalid = s.trace.count .notifyInvalid + n ∧
      t.trace.count .trigFall = s.trace.count .trigFall + n ∧
      t.trace.count .trigRise = s.trace.count .trigRise + n ∧
      t.trace.count .notifyValid = s.trace.count .notifyValid

/-! ## Edge Sampler -/

/-- R100, the three things an edge can do: ignored when disarmed or when the frame is complete; stored at
`bit_index`; stored as the 48th bit, with the frame published and the consumer notified. (Of the model's
own `reactions` nothing is said at the 48th bit.) -/
def Obligations.EdgeSamplesOneBit : Prop :=
  strobes 0x08 = [.edge false] ∧ strobes 0x0C = [.edge true] ∧
  ∀ (s : State) (d : Bool),
    (s.edgeArmed = false ∨ 48 ≤ s.bitIndex.toNat →
      exec (edgeOp d) s = .next s) ∧
    (s.edgeArmed = true → s.bitIndex.toNat < 47 →
      ∃ t, exec (edgeOp d) s = .next t ∧ storesBit s.wf t.wf s.bitIndex.toNat d ∧
        t.bitIndex.toNat = s.bitIndex.toNat + 1 ∧
        t = { s with wf := t.wf, bitIndex := t.bitIndex }) ∧
    (s.edgeArmed = true → s.bitIndex.toNat = 47 →
      ∃ t, exec (edgeOp d) s = .next t ∧ storesBit s.wf t.wf 47 d ∧ t.bitIndex.toNat = 48 ∧
        t = { s with
              wf := t.wf, bitIndex := t.bitIndex, complete := true, pub := Memory.image t.wf,
              sampleValid := true, trace := s.trace ++ [.notifyValid],
              reactions := t.reactions })

/-- 42_frame_codec.md section 3 (R113), 40_timing_controller.md section 4 (R85), 95_test_vectors.md X1 and X4:
after a request, timed or not, whatever `READ`s, `VALIDQ`s, empty words and `CNT`s that do not expire the
timer fall between, the first 48 edges are the frame: it stands in the buffer, it is published, it is
published once, and further edges of the phase change nothing. How many `CNT`s make a phase is the
spec's own decision D12, log entry 20. -/
def Obligations.FullFrameIsPublishedOnce : Prop :=
  ∀ (s : State) (v : Frame) (request : Instr) (ops : List Instr),
    opensWindow s request → ops.all inWindow = true → countsFit s ops →
    (edgeBits ops).take 48 = streamOf v →
      ∃ t, runAll (request :: ops) s = .next t ∧
        Memory.image t.wf = v ∧ t.pub = v ∧ t.bitIndex.toNat = 48 ∧ t.complete = true ∧
        t.sampleValid = true ∧ t.phase = .reading ∧
        t.trace.count .notifyValid = s.trace.count .notifyValid + 1

/-- 60_exceptions.md section 1 (R151): a window that closes after fewer than 48 edges publishes nothing
and notifies nobody; the bits received stay in the buffer until the next request wipes them, and the
consumer sees the sample it saw before. The window is opened and closed by `TICK`, or by the `CNT` that
performs it, and may hold `CNT`s that do not expire the timer; how many make a phase is the spec's own
decision D12, log entry 20. -/
def Obligations.TruncatedFrameIsDiscarded : Prop :=
  ∀ (s : State) (request close : Instr) (ops : List Instr),
    opensWindow s request → ops.all inWindow = true → countsFit s ops → closesWindow s ops close →
    (edgeBits ops).length < 48 →
      ∃ t, runAll (request :: ops ++ [close]) s = .next t ∧
        t.pub = s.pub ∧ t.sampleValid = false ∧ t.complete = false ∧ t.phase = .idle ∧
        t.edgeArmed = false ∧ t.bitIndex.toNat = (edgeBits ops).length ∧
        (∀ i, (Memory.image t.wf).getLsbD i = (edgeBits ops).getD i false) ∧
        t.trace.count .notifyValid = s.trace.count .notifyValid ∧
        ∃ u, exec .tickIdle t = .next u ∧ Memory.image u.wf = 0 ∧ u.bitIndex = 0 ∧ u.pub = s.pub

/-- 60_exceptions.md section 3 (R156): the four outcomes of a `TICK` and an `EDGE` due at the same instant,
in states that meet the invariants; and a word that carries both leaves both orders open. -/
def Obligations.TickAndEdgeDueTogether : Prop :=
  (∀ (s : State) (d : Bool), s.Inv → s.phase = .idle →
    (∃ t, runAll [edgeOp d, .tickIdle] s = .next t ∧ t.phase = .reading ∧ t.bitIndex = 0 ∧
      Memory.image t.wf = 0 ∧ t.pub = s.pub) ∧
    (∃ t, runAll [.tickIdle, edgeOp d] s = .next t ∧ t.phase = .reading ∧ t.bitIndex = 1 ∧
      (∀ j, (Memory.image t.wf).getLsbD j = (decide (j = 0) && d)) ∧ t.pub = s.pub)) ∧
  (∀ (s : State) (d : Bool), s.Inv → s.phase = .reading →
    (∃ t, runAll [edgeOp d, .tickReading] s = .next t ∧ t.phase = .idle ∧
      (s.bitIndex.toNat < 48 → storesBit s.wf t.wf s.bitIndex.toNat d ∧
        t.bitIndex.toNat = s.bitIndex.toNat + 1) ∧
      (s.bitIndex.toNat = 47 → t.pub = Memory.image t.wf ∧ t.sampleValid = true) ∧
      (s.bitIndex.toNat ≠ 47 → t.pub = s.pub ∧ t.sampleValid = s.sampleValid)) ∧
    (runAll [.tickReading, edgeOp d] s = runAll [.tickReading] s)) ∧
  (∀ (w : Byte), strobes w = [.tick, .edge (w.getLsbD 2)] →
    (∃ n, serialOrder (strobes w) n = [.tick, .edge (w.getLsbD 2)]) ∧
    (∃ n, serialOrder (strobes w) n = [.edge (w.getLsbD 2), .tick]))

/-! ## Frame Codec -/

/-- R111: `PACK` adds one bit to the image and writes one byte at most; a 0 is not written; two `PACK`s
commute. -/
def Obligations.PackSetsOneBit : Prop :=
  ∀ (s : State) (i : BitVec 6) (v : Bool), i.toNat < 48 →
    ∃ t, exec (.pack i v) s = .next t ∧ t = { s with wf := t.wf } ∧
      storesBit s.wf t.wf i.toNat v ∧
      Memory.image t.wf = Memory.image s.wf ||| ((BitVec.ofNat 48 v.toNat) <<< i.toNat) ∧
      Memory.byte t.wf (byteOf i.toNat) =
        Memory.byte s.wf (byteOf i.toNat) ||| ((BitVec.ofNat 8 v.toNat) <<< bitOf i.toNat) ∧
      (v = false → t = s) ∧
      (∀ (j : BitVec 6) (w : Bool), j.toNat < 48 →
        ∃ a b, runAll [.pack i v, .pack j w] s = .next a ∧ runAll [.pack j w, .pack i v] s = .next b ∧
          Memory.image a.wf = Memory.image b.wf)

/-- 20_memory.md sections 2 and 4 (R43, R45): there is no stream index of 48 or more; a `PACK` given one
stops (log entry 10). -/
def Obligations.PackOutsideTheMapFaults : Prop :=
  ∀ (s : State) (i : BitVec 6) (v : Bool), 48 ≤ i.toNat →
    exec (.pack i v) s = .fault .noSuchStreamIndex

/-- 42_frame_codec.md section 2: on a buffer in canonical form two `PACK`s leave the same state in either
order. -/
def Obligations.PacksLeaveTheSameStateInEitherOrder : Prop :=
  ∀ (s : State) (i j : BitVec 6) (v w : Bool), Memory.wf s.wf = true → i.toNat < 48 → j.toNat < 48 →
    runAll [.pack i v, .pack j w] s = runAll [.pack j w, .pack i v] s

/-- 42_frame_codec.md sections 1 and 3 (the slices of `DECODE`): each field bit is the bit of the image at
its stream index. That the first bit of a field is its least significant one, and that `btn_a` to `btn_d`
ascend, are the spec's own decisions D5 and D25, log entry 12; that the value returned stands in the
trace is log entry 7. -/
def Obligations.DecodeReturnsTheSlices : Prop :=
  ∀ (s : State) (w : Frame), ∃ f,
    exec (.decode w) s = .next { s with trace := s.trace ++ [.returned (.fields f)] } ∧
    f.fire = w.getLsbD 0 ∧ f.top = w.getLsbD 1 ∧ f.topLarge = w.getLsbD 1 ∧ f.topUp = w.getLsbD 2 ∧
    f.topDown = w.getLsbD 3 ∧ f.btnA = w.getLsbD 4 ∧ f.btnB = w.getLsbD 5 ∧ f.btnC = w.getLsbD 6 ∧
    f.btnD = w.getLsbD 7 ∧ f.shift = w.getLsbD 8 ∧
    (∀ j, j < 10 → f.x.getLsbD j = w.getLsbD (9 + j)) ∧
    (∀ j, j < 10 → f.y.getLsbD j = w.getLsbD (19 + j)) ∧
    (∀ j, j < 7 → f.m.getLsbD j = w.getLsbD (29 + j)) ∧
    (∀ j, j < 6 → f.r.getLsbD j = w.getLsbD (36 + j)) ∧
    (∀ j, j < 4 → f.head.getLsbD j = w.getLsbD (42 + j)) ∧
    f.reserved = w.getLsbD 46 ∧ f.parity = w.getLsbD 47

/-- 42_frame_codec.md section 4 (R114): `ENCODE` is the weighted sum of the fields and the inverse of
`DECODE`, both ways round; with the rule's worked example. The weights rest on the spec's own decisions
D5 and D25, log entry 12. -/
def Obligations.EncodeAndDecodeAreInverse : Prop :=
  (∀ f : JoystickSample, (encodeFrame f).toNat =
    f.fire.toNat + 2 * f.top.toNat + 4 * f.topUp.toNat + 8 * f.topDown.toNat
      + 16 * f.btnA.toNat + 32 * f.btnB.toNat + 64 * f.btnC.toNat + 128 * f.btnD.toNat
      + 2 ^ 8 * f.shift.toNat + 2 ^ 9 * f.x.toNat + 2 ^ 19 * f.y.toNat + 2 ^ 29 * f.m.toNat
      + 2 ^ 36 * f.r.toNat + 2 ^ 42 * f.head.toNat
      + 2 ^ 46 * f.reserved.toNat + 2 ^ 47 * f.parity.toNat) ∧
  (∀ f : JoystickSample, decodeFrame (encodeFrame f) = f) ∧
  (∀ w : Frame, encodeFrame (decodeFrame w) = w) ∧
  encodeFrame ⟨true, false, false, false, false, false, false, false, false, 512, 0, 0, 0, 0, false,
    false⟩ = 0x000000040001

/-- 42_frame_codec.md section 4: `ENCODE` as an operation of the table returns its image and writes no
state (log entry 7). -/
def Obligations.EncodeReturnsTheImage : Prop :=
  ∀ (s : State) (f : JoystickSample), exec (.encode f) s =
    .next { s with trace := s.trace ++ [.returned (.image (encodeFrame f))] }

/-- 20_memory.md section 1 (the image of the buffer): little-endian in bytes, bit position 0 the least
significant. This is the spec's own reading, which the source does not give: decision D5, log entry 12. -/
def Obligations.ImageIsLittleEndian : Prop :=
  ∀ m : Memory,
    (Memory.image m).toNat =
      (Memory.byte m 0).toNat + 2 ^ 8 * (Memory.byte m 1).toNat + 2 ^ 16 * (Memory.byte m 2).toNat
        + 2 ^ 24 * (Memory.byte m 3).toNat + 2 ^ 32 * (Memory.byte m 4).toNat
        + 2 ^ 40 * (Memory.byte m 5).toNat ∧
    ∀ i, i < 48 → (Memory.image m).getLsbD i = (Memory.byte m (i / 8)).getLsbD (i % 8)

/-! ## Snapshot Synchronizer -/

/-- R130: `PUBLISH` writes all 48 bits of `pub` from the working frame and sets the validity flag, and
nothing else; what it publishes decodes to the record of the working frame. -/
def Obligations.PublishCopiesTheWorkingFrame : Prop :=
  ∀ s : State, ∃ t, exec .publish s = .next t ∧
    decodeFrame t.pub = decodeFrame (Memory.image s.wf) ∧
    t = { s with pub := Memory.image s.wf, sampleValid := true }

/-- R132: `READ` returns the whole of `pub`, whatever the validity flag is, and writes nothing. -/
def Obligations.ReadReturnsThePublishedSample : Prop :=
  strobes 0x02 = [.read] ∧
  ∀ s : State, exec .read s = .next { s with trace := s.trace ++ [.returned (.sample s.pub)] }

/-- R133: `VALIDQ` returns the validity flag and writes nothing. -/
def Obligations.ValidqReturnsTheValidity : Prop :=
  strobes 0x01 = [.validq] ∧
  ∀ s : State, exec .validq s = .next { s with trace := s.trace ++ [.returned (.validity s.sampleValid)] }

/-- 43_snapshot_synchronizer.md section 5 (R134, R135): a notification is one output event; it changes no
element. The requests of a registered observer come next (log entry 8), an absent one does nothing. -/
def Obligations.NotificationsAreOutputEvents : Prop :=
  ∀ s : State,
    exec .notifyValid s =
      .next { s with trace := s.trace ++ [.notifyValid], reactions := s.reactions ++ onValidRequests s } ∧
    exec .notifyInvalid s =
      .next { s with trace := s.trace ++ [.notifyInvalid],
                     reactions := s.reactions ++ onInvalidRequests s } ∧
    (∀ o, s.registered = some o → onValidRequests s = o.onValid ∧ onInvalidRequests s = o.onInvalid) ∧
    (s.registered = none → onValidRequests s = [] ∧ onInvalidRequests s = [])

/-- 43_snapshot_synchronizer.md section 6 (R136), 30_encoding.md section 5 (R65), U4: the one registration at
startup completes and writes no element; a second or a late one is refused (log entry 9). -/
def Obligations.RegistrationHappensOnceAtStartup : Prop :=
  ∀ s : State,
    (s.registered = none → s.configOpen = true →
      exec .regcb s = .next { s with registered := some s.consumer }) ∧
    (s.registered ≠ none → exec .regcb s = .refused .repeatedRegistration) ∧
    (s.registered = none → s.configOpen = false → exec .regcb s = .refused .lateRegistration)

/-- 30_encoding.md section 5 (the event word 0x00): no event, no state change. -/
def Obligations.NopChangesNothing : Prop :=
  ∀ s : State, exec .nop s = .next s

/-! ## The whole machine -/

/-- Log entries 8 and 9, the model's own fields: the two arms of `TICK` end the time in which `REGCB` may come,
an `EDGE` does not, and only the 48th edge and the request queue what a registered observer asks for. -/
def Obligations.StartupWindowAndObserverQueue : Prop :=
  ∀ s : State,
    (∃ t, exec .tickIdle s = .next t ∧ t.configOpen = false ∧
      t.reactions = s.reactions ++ onInvalidRequests s) ∧
    (∃ t, exec .tickReading s = .next t ∧ t.configOpen = false ∧ t.reactions = s.reactions) ∧
    (∀ d, ∃ t, exec (edgeOp d) s = .next t ∧ t.configOpen = s.configOpen ∧
      t.reactions = s.reactions ++
        if s.edgeArmed = true ∧ s.bitIndex.toNat = 47 then onValidRequests s else [])

/-- 10_state.md section 11 (R25): every step keeps the invariants. -/
def Obligations.EveryStepKeepsTheInvariants : Prop :=
  ∀ s t : State, s.Inv → step s = .next t → t.Inv

/-- 60_exceptions.md section 7 (R160): each context writes only what it owns. The timer context clears the
working frame where it opens a phase or performs `FRAME_RESET`, and leaves it otherwise. The edge context
stores one bit at `bit_index`, or `PACK` at its operand, and leaves the working frame otherwise; it
publishes nothing but the working frame. -/
def Obligations.ContextsWriteOnlyWhatTheyOwn : Prop :=
  ∀ (i : Instr) (s t : State), exec i s = .next t →
    (contextOf i = some .timer →
      t.pub = s.pub ∧ (t.sampleValid = s.sampleValid ∨ t.sampleValid = false) ∧
      (t.bitIndex = s.bitIndex ∨ t.bitIndex = 0) ∧ (t.complete = s.complete ∨ t.complete = false) ∧
      (opensWindow s i ∨ i = .frameReset → ∀ k, Memory.byte t.wf k = 0) ∧
      (¬ opensWindow s i → i ≠ .frameReset → t.wf = s.wf) ∧
      t.registered = s.registered) ∧
    (contextOf i = some .edge →
      t.phase = s.phase ∧ t.timerTop = s.timerTop ∧ t.timerCnt = s.timerCnt ∧
      t.edgeArmed = s.edgeArmed ∧ t.timingOut = s.timingOut ∧ t.registered = s.registered ∧
      (t.sampleValid = s.sampleValid ∨ t.sampleValid = true) ∧
      (t.complete = s.complete ∨ t.complete = true) ∧
      (t.bitIndex = s.bitIndex ∨ t.bitIndex.toNat = s.bitIndex.toNat + 1) ∧
      (∀ d, i = edgeOp d → s.edgeArmed = true → s.bitIndex.toNat < 48 →
        storesBit s.wf t.wf s.bitIndex.toNat d) ∧
      (∀ d, i = edgeOp d → s.edgeArmed = false ∨ 48 ≤ s.bitIndex.toNat → t.wf = s.wf) ∧
      (∀ k v, i = .pack k v → storesBit s.wf t.wf k.toNat v) ∧
      ((∃ w, i = .decode w) ∨ i = .publish ∨ i = .notifyValid → t.wf = s.wf) ∧
      (t.pub = s.pub ∨ t.pub = Memory.image t.wf)) ∧
    (contextOf i = some .consumer → t = { s with trace := t.trace, registered := t.registered })

/-- 10_state.md section 6 (R20), 20_memory.md section 6 (R48): in states that meet the invariants, the
published sample changes only by a `RESET` or by the step that brings `bit_index` from 47 to 48, and
then it is the frame standing in the working buffer. -/
def Obligations.PublishedSampleChangesOnlyWhenAFrameCompletes : Prop :=
  ∀ s t : State, s.Inv → step s = .next t → t.pub ≠ s.pub →
    (s.bitIndex.toNat = 47 ∧ t.bitIndex.toNat = 48 ∧ s.phase = .reading ∧ t.pub = Memory.image t.wf ∧
      t.sampleValid = true) ∨
    (t.pub = Config.pubReset ∧ t.sampleValid = false ∧ t.phase = .idle ∧ t.trace = [])

/-- 10_state.md section 6 (R21), 70_reset_and_hazards.md section 3 (R181): the validity flag rises only when a
frame completes, and falls only at an Idle->Reading transition or a `RESET`. -/
def Obligations.ValidityRisesAtCompletionAndFallsAtTheRequest : Prop :=
  ∀ s t : State, step s = .next t →
    (s.sampleValid = false → t.sampleValid = true →
      s.edgeArmed = true ∧ s.bitIndex.toNat = 47 ∧ t.bitIndex.toNat = 48 ∧ t.pub = Memory.image t.wf) ∧
    (s.sampleValid = true → t.sampleValid = false →
      t.bitIndex = 0 ∧ (∀ k, Memory.byte t.wf k = 0) ∧
        ((s.phase = .idle ∧ t.phase = .reading ∧ t.pub = s.pub) ∨
          (t.phase = .idle ∧ t.pub = Config.pubReset)))

/-- 40_timing_controller.md section 3: a bit of the working frame is cleared only with all the others, by the
frame reset of an Idle->Reading transition or by `RESET`. -/
def Obligations.WorkingFrameIsClearedOnlyAsAWhole : Prop :=
  ∀ (s t : State) (i : Nat), step s = .next t →
    (Memory.image s.wf).getLsbD i = true → (Memory.image t.wf).getLsbD i = false →
      Memory.image t.wf = 0 ∧ t.bitIndex = 0 ∧ t.complete = false ∧
        ((s.phase = .idle ∧ t.phase = .reading) ∨ (t.phase = .idle ∧ t.pub = Config.pubReset))

/-- 00_scope.md section 5 (`emit`), 10_state.md section 10 (R24): a step only appends to the output trace,
unless it is a `RESET`, which empties it (log entry 7); and no step writes a parameter or the consumer. -/
def Obligations.TraceGrowsAndParametersStay : Prop :=
  ∀ s t : State, step s = .next t →
    t.params = s.params ∧ t.consumer = s.consumer ∧
    (∃ served, s.script = served ++ t.script ∧ served.length ≤ 1) ∧
    ((∃ out, t.trace = s.trace ++ out) ∨ (t.trace = [] ∧ t.registered = none ∧ t.phase = .idle))

/-- 10_state.md section 2 (R11), 20_memory.md section 5: the consumer learns of the block only `pub` and
`sample_valid`: in two states that agree on these (and on the registration) its operations return the
same, whatever the working frame, the index, the phase and the timer are. -/
def Obligations.ConsumerLearnsOnlyPubAndValidity : Prop :=
  ∀ (i : Instr) (s s' t : State), contextOf i = some .consumer →
    s.pub = s'.pub → s.sampleValid = s'.sampleValid → s.registered = s'.registered →
    s.configOpen = s'.configOpen → exec i s = .next t →
      ∃ t' out, exec i s' = .next t' ∧ t.trace = s.trace ++ out ∧ t'.trace = s'.trace ++ out
end

