-- ==== Sys2Proof/Laws/Memory.lean ====
section
/-!
SUPPORT. The laws of the working frame buffer: read after write, the canonical form, and what setting a
bit does to the 48-bit image.
-/
namespace Sys2Proof.Machine

/-! ## Read after write -/

theorem byte_filter_of_ne (m : Memory) (k j : Nat) (h : j ≠ k) :
    Memory.byte (m.filter fun c => c.1 != k) j = Memory.byte m j := by
  induction m with
  | nil => rfl
  | cons c rest ih =>
    obtain ⟨a, b⟩ := c
    by_cases hak : a = k
    · subst hak
      simp [Memory.byte, ih, Ne.symm h]
    · simp [Memory.byte, ih, hak]

theorem byte_filter_self (m : Memory) (k : Nat) :
    Memory.byte (m.filter fun c => c.1 != k) k = 0 := by
  induction m with
  | nil => rfl
  | cons c rest ih =>
    obtain ⟨a, b⟩ := c
    by_cases hak : a = k
    · subst hak
      simpa using ih
    · simp [Memory.byte, ih, hak]

theorem byte_place_of_ne (k j : Nat) (v : Byte) (m : Memory) (h : j ≠ k) :
    Memory.byte (Memory.place k v m) j = Memory.byte m j := by
  induction m with
  | nil => simp [Memory.place, Memory.byte, Ne.symm h]
  | cons c rest ih =>
    obtain ⟨a, b⟩ := c
    by_cases hlt : k < a
    · simp [Memory.place, Memory.byte, hlt, Ne.symm h]
    · simp [Memory.place, Memory.byte, hlt, ih]

theorem byte_place_self (k : Nat) (v : Byte) (m : Memory) (h : ∀ c ∈ m, c.1 ≠ k) :
    Memory.byte (Memory.place k v m) k = v := by
  induction m with
  | nil => simp [Memory.place, Memory.byte]
  | cons c rest ih =>
    obtain ⟨a, b⟩ := c
    have ha : a ≠ k := h (a, b) (by simp)
    by_cases hlt : k < a
    · simp [Memory.place, Memory.byte, hlt]
    · simp [Memory.place, Memory.byte, hlt, ha, ih fun c hc => h c (by simp [hc])]

/-- A byte just written is read back. -/
@[simp] theorem byte_put_self (m : Memory) (k : Nat) (v : Byte) : Memory.byte (Memory.put m k v) k = v := by
  unfold Memory.put
  split
  · next h => rw [h]; exact byte_filter_self m k
  · exact byte_place_self k v _ (by simp)

/-- A write leaves every other byte alone. -/
theorem byte_put_of_ne (m : Memory) (k j : Nat) (v : Byte) (h : j ≠ k) :
    Memory.byte (Memory.put m k v) j = Memory.byte m j := by
  unfold Memory.put
  split
  · exact byte_filter_of_ne m k j h
  · rw [byte_place_of_ne k j v _ h, byte_filter_of_ne m k j h]

theorem byte_put (m : Memory) (k j : Nat) (v : Byte) :
    Memory.byte (Memory.put m k v) j = if j = k then v else Memory.byte m j := by
  split
  · next h => rw [h, byte_put_self]
  · next h => exact byte_put_of_ne m k j v h

@[simp] theorem byte_cleared (k : Nat) : Memory.byte Memory.cleared k = 0 := rfl

/-! ## The canonical form -/

theorem wfFrom_mono {lo lo' : Nat} {m : Memory} (hle : lo' ≤ lo) (h : Memory.wfFrom lo m = true) :
    Memory.wfFrom lo' m = true := by
  cases m with
  | nil => rfl
  | cons c rest =>
    simp only [Memory.wfFrom, Bool.and_eq_true, decide_eq_true_eq] at h ⊢
    exact ⟨⟨⟨hle.trans h.1.1.1, h.1.1.2⟩, h.1.2⟩, h.2⟩

theorem wfFrom_filter (k : Nat) : ∀ (m : Memory) (lo : Nat), Memory.wfFrom lo m = true →
    Memory.wfFrom lo (m.filter fun c => c.1 != k) = true
  | [], _, _ => rfl
  | (a, b) :: rest, lo, h => by
    simp only [Memory.wfFrom, Bool.and_eq_true, decide_eq_true_eq] at h
    have ih := wfFrom_filter k rest (a + 1) h.2
    by_cases hak : a = k
    · subst hak
      simpa using wfFrom_mono (by omega) ih
    · simp only [List.filter_cons, bne_iff_ne, ne_eq, hak, not_false_eq_true, ↓reduceIte, Memory.wfFrom,
        Bool.and_eq_true, decide_eq_true_eq]
      exact ⟨⟨h.1.1, by simpa using h.1.2⟩, ih⟩

theorem wfFrom_place (k : Nat) (v : Byte) (hk : k < Config.nBytes) (hv : v ≠ 0) :
    ∀ (m : Memory) (lo : Nat), lo ≤ k → (∀ c ∈ m, c.1 ≠ k) → Memory.wfFrom lo m = true →
      Memory.wfFrom lo (Memory.place k v m) = true
  | [], lo, hlo, _, _ => by simpa [Memory.place, Memory.wfFrom, hlo, hk] using hv
  | (a, b) :: rest, lo, hlo, hne, h => by
    have ha : a ≠ k := hne (a, b) (by simp)
    simp only [Memory.wfFrom, Bool.and_eq_true, decide_eq_true_eq] at h
    by_cases hlt : k < a
    · simp only [Memory.place, hlt, ↓reduceIte, Memory.wfFrom, Bool.and_eq_true, decide_eq_true_eq]
      exact ⟨⟨⟨hlo, hk⟩, by simpa using hv⟩, ⟨⟨by omega, h.1.1.2⟩, h.1.2⟩, h.2⟩
    · simp only [Memory.place, hlt, ↓reduceIte, Memory.wfFrom, Bool.and_eq_true, decide_eq_true_eq]
      exact ⟨h.1, wfFrom_place k v hk hv rest (a + 1) (by omega) (fun c hc => hne c (by simp [hc])) h.2⟩

/-- Every write keeps the canonical form. -/
theorem put_wf (m : Memory) (k : Nat) (v : Byte) (hk : k < Config.nBytes) (h : Memory.wf m = true) :
    Memory.wf (Memory.put m k v) = true := by
  have hf := wfFrom_filter k m 0 h
  unfold Memory.wf Memory.put
  split
  · exact hf
  · next hv => exact wfFrom_place k v hk hv _ 0 (Nat.zero_le _) (by simp) hf

theorem byteOf_lt {i : Nat} (hi : i < Config.nBits) : byteOf i < Config.nBytes := by
  simp only [byteOf, Config.nBits, Config.nBytes] at *; omega

theorem setBit_wf (m : Memory) (i : Nat) (hi : i < Config.nBits) (h : Memory.wf m = true) :
    Memory.wf (Memory.setBit m i) = true := put_wf m _ _ (byteOf_lt hi) h

theorem packMemory_wf (i : Nat) (v : Bool) (m : Memory) (hi : i < Config.nBits) (h : Memory.wf m = true) :
    Memory.wf (packMemory i v m) = true := by
  cases v
  · exact h
  · exact setBit_wf m i hi h

@[simp] theorem cleared_wf : Memory.wf Memory.cleared = true := rfl

/-- The memory of the state after reset is canonical. -/
theorem reset_wf : Memory.wf State.reset.wf = true := rfl

theorem byte_of_lt_lo : ∀ (m : Memory) (lo k : Nat), Memory.wfFrom lo m = true → k < lo → Memory.byte m k = 0
  | [], _, _, _, _ => rfl
  | (a, b) :: rest, lo, k, h, hk => by
    simp only [Memory.wfFrom, Bool.and_eq_true, decide_eq_true_eq] at h
    have hne : a ≠ k := by omega
    simpa [Memory.byte, hne] using byte_of_lt_lo rest (a + 1) k h.2 (by omega)

/-- Canonical memories that read alike are equal. -/
theorem wfFrom_ext : ∀ (m m' : Memory) (lo : Nat), Memory.wfFrom lo m = true → Memory.wfFrom lo m' = true →
    (∀ k, Memory.byte m k = Memory.byte m' k) → m = m'
  | [], [], _, _, _, _ => rfl
  | [], (a, b) :: rest, lo, _, h', heq => by
    simp only [Memory.wfFrom, Bool.and_eq_true, decide_eq_true_eq, bne_iff_ne] at h'
    exact absurd (by simpa [Memory.byte] using (heq a).symm) h'.1.2
  | (a, b) :: rest, [], lo, h, _, heq => by
    simp only [Memory.wfFrom, Bool.and_eq_true, decide_eq_true_eq, bne_iff_ne] at h
    exact absurd (by simpa [Memory.byte] using heq a) h.1.2
  | (a, b) :: rest, (a', b') :: rest', lo, h, h', heq => by
    simp only [Memory.wfFrom, Bool.and_eq_true, decide_eq_true_eq, bne_iff_ne] at h h'
    have haa : a = a' := by
      rcases Nat.lt_trichotomy a a' with hlt | he | hgt
      · have h1 := heq a
        rw [show Memory.byte ((a', b') :: rest') a = 0 by
          rw [Memory.byte, if_neg (by omega)]; exact byte_of_lt_lo rest' (a' + 1) a h'.2 (by omega)] at h1
        exact absurd (by simpa [Memory.byte] using h1) h.1.2
      · exact he
      · have h1 := heq a'
        rw [show Memory.byte ((a, b) :: rest) a' = 0 by
          rw [Memory.byte, if_neg (by omega)]; exact byte_of_lt_lo rest (a + 1) a' h.2 (by omega)] at h1
        exact absurd (by simpa [Memory.byte] using h1.symm) h'.1.2
    subst haa
    have hbb : b = b' := by simpa [Memory.byte] using heq a
    subst hbb
    have hrest : rest = rest' := wfFrom_ext rest rest' (a + 1) h.2 h'.2 fun k => by
      by_cases hk : a = k
      · subst hk
        rw [byte_of_lt_lo rest (a + 1) a h.2 (by omega), byte_of_lt_lo rest' (a + 1) a h'.2 (by omega)]
      · simpa [Memory.byte, hk] using heq k
    rw [hrest]

theorem memory_ext {m m' : Memory} (h : Memory.wf m = true) (h' : Memory.wf m' = true)
    (heq : ∀ k, Memory.byte m k = Memory.byte m' k) : m = m' := wfFrom_ext m m' 0 h h' heq

/-! ## The 48-bit image -/

theorem getLsbD_frameOfSix (b0 b1 b2 b3 b4 b5 : Byte) (i : Nat) :
    (frameOfSix b0 b1 b2 b3 b4 b5).getLsbD i =
      if i < 8 then b0.getLsbD i else if i < 16 then b1.getLsbD (i - 8) else if i < 24 then b2.getLsbD (i - 16)
      else if i < 32 then b3.getLsbD (i - 24) else if i < 40 then b4.getLsbD (i - 32)
      else b5.getLsbD (i - 40) := by
  unfold frameOfSix
  simp only [BitVec.getLsbD_append, Nat.sub_sub]
  repeat' split
  all_goals first | rfl | omega

/-- Bit `i` of the image is the bit of the byte that holds stream index `i` (R40). -/
theorem image_getLsbD (m : Memory) (i : Nat) (hi : i < Config.nBits) :
    (Memory.image m).getLsbD i = (Memory.byte m (byteOf i)).getLsbD (bitOf i) := by
  simp only [Config.nBits] at hi
  simp only [Memory.image, getLsbD_frameOfSix, byteOf, bitOf]
  have hq : i / 8 = 0 ∨ i / 8 = 1 ∨ i / 8 = 2 ∨ i / 8 = 3 ∨ i / 8 = 4 ∨ i / 8 = 5 := by omega
  rcases hq with h | h | h | h | h | h <;>
    · rw [h]
      repeat' split
      all_goals first | omega | (congr 1; omega)

@[simp] theorem image_cleared : Memory.image Memory.cleared = 0 := by decide

@[simp] theorem image_nil : Memory.image [] = 0 := by decide

theorem getLsbD_shifted_one (j b : Nat) (hb : b < 8) : (1#8 <<< b).getLsbD j = decide (j = b) := by
  rw [BitVec.getLsbD_shiftLeft, BitVec.getLsbD_one]
  by_cases h : j = b
  · subst h; simp [hb]
  · simp [h]; omega

/-- Setting a bit sets that bit of the image and no other (R111). -/
theorem setBit_getLsbD (m : Memory) (i j : Nat) (hi : i < Config.nBits) :
    (Memory.image (Memory.setBit m i)).getLsbD j = ((Memory.image m).getLsbD j || decide (j = i)) := by
  by_cases hj : j < Config.nBits
  · rw [image_getLsbD _ j hj, image_getLsbD m j hj]
    unfold Memory.setBit
    rw [byte_put]
    have hb : bitOf i < 8 := Nat.mod_lt _ (by omega)
    split
    · next h =>
      rw [BitVec.getLsbD_or, getLsbD_shifted_one _ _ hb, ← h]
      congr 1
      rw [decide_eq_decide]
      simp only [byteOf, bitOf] at *
      omega
    · next h =>
      have : j ≠ i := fun e => h (by rw [e])
      simp [this]
  · have hji : j ≠ i := by omega
    have h48 : 48 ≤ j := by simpa [Config.nBits] using hj
    simp [BitVec.getLsbD_of_ge _ j h48, hji]

/-- `PACK` as a function on the image: the stored bit is added to what stands there (R111). -/
theorem packMemory_getLsbD (m : Memory) (i j : Nat) (v : Bool) (hi : i < Config.nBits) :
    (Memory.image (packMemory i v m)).getLsbD j = ((Memory.image m).getLsbD j || (decide (j = i) && v)) := by
  cases v
  · simp [packMemory]
  · simp [packMemory, setBit_getLsbD m i j hi]

/-- `PACK` touches one byte. -/
theorem packMemory_byte_of_ne (m : Memory) (i k : Nat) (v : Bool) (hk : k ≠ byteOf i) :
    Memory.byte (packMemory i v m) k = Memory.byte m k := by
  cases v
  · rfl
  · exact byte_put_of_ne m _ k _ hk

end Sys2Proof.Machine
end

