-- ==== Sys2Proof/Laws/State.lean ====
section
/-!
SUPPORT. What each named update of the state writes, field by field.
-/
namespace Sys2Proof.Machine

variable (s : State)

@[simp] theorem setComplete_phase : (setComplete s).phase = s.phase := rfl
@[simp] theorem setComplete_timerTop : (setComplete s).timerTop = s.timerTop := rfl
@[simp] theorem setComplete_timerCnt : (setComplete s).timerCnt = s.timerCnt := rfl
@[simp] theorem setComplete_edgeArmed : (setComplete s).edgeArmed = s.edgeArmed := rfl
@[simp] theorem setComplete_timingOut : (setComplete s).timingOut = s.timingOut := rfl
@[simp] theorem setComplete_wf : (setComplete s).wf = s.wf := rfl
@[simp] theorem setComplete_bitIndex : (setComplete s).bitIndex = s.bitIndex := rfl
@[simp] theorem setComplete_complete : (setComplete s).complete = true := rfl
@[simp] theorem setComplete_pub : (setComplete s).pub = s.pub := rfl
@[simp] theorem setComplete_sampleValid : (setComplete s).sampleValid = s.sampleValid := rfl
@[simp] theorem setComplete_registered : (setComplete s).registered = s.registered := rfl
@[simp] theorem setComplete_trace : (setComplete s).trace = s.trace := rfl
@[simp] theorem setComplete_params : (setComplete s).params = s.params := rfl
@[simp] theorem setComplete_consumer : (setComplete s).consumer = s.consumer := rfl
@[simp] theorem setComplete_script : (setComplete s).script = s.script := rfl
@[simp] theorem setComplete_due : (setComplete s).due = s.due := rfl
@[simp] theorem setComplete_reactions : (setComplete s).reactions = s.reactions := rfl
@[simp] theorem setComplete_orderCount : (setComplete s).orderCount = s.orderCount := rfl
@[simp] theorem setComplete_configOpen : (setComplete s).configOpen = s.configOpen := rfl

@[simp] theorem setValid_phase : (setValid s).phase = s.phase := rfl
@[simp] theorem setValid_timerTop : (setValid s).timerTop = s.timerTop := rfl
@[simp] theorem setValid_timerCnt : (setValid s).timerCnt = s.timerCnt := rfl
@[simp] theorem setValid_edgeArmed : (setValid s).edgeArmed = s.edgeArmed := rfl
@[simp] theorem setValid_timingOut : (setValid s).timingOut = s.timingOut := rfl
@[simp] theorem setValid_wf : (setValid s).wf = s.wf := rfl
@[simp] theorem setValid_bitIndex : (setValid s).bitIndex = s.bitIndex := rfl
@[simp] theorem setValid_complete : (setValid s).complete = s.complete := rfl
@[simp] theorem setValid_pub : (setValid s).pub = s.pub := rfl
@[simp] theorem setValid_sampleValid : (setValid s).sampleValid = true := rfl
@[simp] theorem setValid_registered : (setValid s).registered = s.registered := rfl
@[simp] theorem setValid_trace : (setValid s).trace = s.trace := rfl
@[simp] theorem setValid_params : (setValid s).params = s.params := rfl
@[simp] theorem setValid_consumer : (setValid s).consumer = s.consumer := rfl
@[simp] theorem setValid_script : (setValid s).script = s.script := rfl
@[simp] theorem setValid_due : (setValid s).due = s.due := rfl
@[simp] theorem setValid_reactions : (setValid s).reactions = s.reactions := rfl
@[simp] theorem setValid_orderCount : (setValid s).orderCount = s.orderCount := rfl
@[simp] theorem setValid_configOpen : (setValid s).configOpen = s.configOpen := rfl

@[simp] theorem clearValid_phase : (clearValid s).phase = s.phase := rfl
@[simp] theorem clearValid_timerTop : (clearValid s).timerTop = s.timerTop := rfl
@[simp] theorem clearValid_timerCnt : (clearValid s).timerCnt = s.timerCnt := rfl
@[simp] theorem clearValid_edgeArmed : (clearValid s).edgeArmed = s.edgeArmed := rfl
@[simp] theorem clearValid_timingOut : (clearValid s).timingOut = s.timingOut := rfl
@[simp] theorem clearValid_wf : (clearValid s).wf = s.wf := rfl
@[simp] theorem clearValid_bitIndex : (clearValid s).bitIndex = s.bitIndex := rfl
@[simp] theorem clearValid_complete : (clearValid s).complete = s.complete := rfl
@[simp] theorem clearValid_pub : (clearValid s).pub = s.pub := rfl
@[simp] theorem clearValid_sampleValid : (clearValid s).sampleValid = false := rfl
@[simp] theorem clearValid_registered : (clearValid s).registered = s.registered := rfl
@[simp] theorem clearValid_trace : (clearValid s).trace = s.trace := rfl
@[simp] theorem clearValid_params : (clearValid s).params = s.params := rfl
@[simp] theorem clearValid_consumer : (clearValid s).consumer = s.consumer := rfl
@[simp] theorem clearValid_script : (clearValid s).script = s.script := rfl
@[simp] theorem clearValid_due : (clearValid s).due = s.due := rfl
@[simp] theorem clearValid_reactions : (clearValid s).reactions = s.reactions := rfl
@[simp] theorem clearValid_orderCount : (clearValid s).orderCount = s.orderCount := rfl
@[simp] theorem clearValid_configOpen : (clearValid s).configOpen = s.configOpen := rfl

@[simp] theorem setArmed_phase (a : Bool) : (setArmed a s).phase = s.phase := rfl
@[simp] theorem setArmed_timerTop (a : Bool) : (setArmed a s).timerTop = s.timerTop := rfl
@[simp] theorem setArmed_timerCnt (a : Bool) : (setArmed a s).timerCnt = s.timerCnt := rfl
@[simp] theorem setArmed_edgeArmed (a : Bool) : (setArmed a s).edgeArmed = a := rfl
@[simp] theorem setArmed_timingOut (a : Bool) : (setArmed a s).timingOut = s.timingOut := rfl
@[simp] theorem setArmed_wf (a : Bool) : (setArmed a s).wf = s.wf := rfl
@[simp] theorem setArmed_bitIndex (a : Bool) : (setArmed a s).bitIndex = s.bitIndex := rfl
@[simp] theorem setArmed_complete (a : Bool) : (setArmed a s).complete = s.complete := rfl
@[simp] theorem setArmed_pub (a : Bool) : (setArmed a s).pub = s.pub := rfl
@[simp] theorem setArmed_sampleValid (a : Bool) : (setArmed a s).sampleValid = s.sampleValid := rfl
@[simp] theorem setArmed_registered (a : Bool) : (setArmed a s).registered = s.registered := rfl
@[simp] theorem setArmed_trace (a : Bool) : (setArmed a s).trace = s.trace := rfl
@[simp] theorem setArmed_params (a : Bool) : (setArmed a s).params = s.params := rfl
@[simp] theorem setArmed_consumer (a : Bool) : (setArmed a s).consumer = s.consumer := rfl
@[simp] theorem setArmed_script (a : Bool) : (setArmed a s).script = s.script := rfl
@[simp] theorem setArmed_due (a : Bool) : (setArmed a s).due = s.due := rfl
@[simp] theorem setArmed_reactions (a : Bool) : (setArmed a s).reactions = s.reactions := rfl
@[simp] theorem setArmed_orderCount (a : Bool) : (setArmed a s).orderCount = s.orderCount := rfl
@[simp] theorem setArmed_configOpen (a : Bool) : (setArmed a s).configOpen = s.configOpen := rfl

@[simp] theorem closeConfig_phase : (closeConfig s).phase = s.phase := rfl
@[simp] theorem closeConfig_timerTop : (closeConfig s).timerTop = s.timerTop := rfl
@[simp] theorem closeConfig_timerCnt : (closeConfig s).timerCnt = s.timerCnt := rfl
@[simp] theorem closeConfig_edgeArmed : (closeConfig s).edgeArmed = s.edgeArmed := rfl
@[simp] theorem closeConfig_timingOut : (closeConfig s).timingOut = s.timingOut := rfl
@[simp] theorem closeConfig_wf : (closeConfig s).wf = s.wf := rfl
@[simp] theorem closeConfig_bitIndex : (closeConfig s).bitIndex = s.bitIndex := rfl
@[simp] theorem closeConfig_complete : (closeConfig s).complete = s.complete := rfl
@[simp] theorem closeConfig_pub : (closeConfig s).pub = s.pub := rfl
@[simp] theorem closeConfig_sampleValid : (closeConfig s).sampleValid = s.sampleValid := rfl
@[simp] theorem closeConfig_registered : (closeConfig s).registered = s.registered := rfl
@[simp] theorem closeConfig_trace : (closeConfig s).trace = s.trace := rfl
@[simp] theorem closeConfig_params : (closeConfig s).params = s.params := rfl
@[simp] theorem closeConfig_consumer : (closeConfig s).consumer = s.consumer := rfl
@[simp] theorem closeConfig_script : (closeConfig s).script = s.script := rfl
@[simp] theorem closeConfig_due : (closeConfig s).due = s.due := rfl
@[simp] theorem closeConfig_reactions : (closeConfig s).reactions = s.reactions := rfl
@[simp] theorem closeConfig_orderCount : (closeConfig s).orderCount = s.orderCount := rfl
@[simp] theorem closeConfig_configOpen : (closeConfig s).configOpen = false := rfl

@[simp] theorem emit_phase (e : Output) : (emit e s).phase = s.phase := rfl
@[simp] theorem emit_timerTop (e : Output) : (emit e s).timerTop = s.timerTop := rfl
@[simp] theorem emit_timerCnt (e : Output) : (emit e s).timerCnt = s.timerCnt := rfl
@[simp] theorem emit_edgeArmed (e : Output) : (emit e s).edgeArmed = s.edgeArmed := rfl
@[simp] theorem emit_timingOut (e : Output) : (emit e s).timingOut = s.timingOut := rfl
@[simp] theorem emit_wf (e : Output) : (emit e s).wf = s.wf := rfl
@[simp] theorem emit_bitIndex (e : Output) : (emit e s).bitIndex = s.bitIndex := rfl
@[simp] theorem emit_complete (e : Output) : (emit e s).complete = s.complete := rfl
@[simp] theorem emit_pub (e : Output) : (emit e s).pub = s.pub := rfl
@[simp] theorem emit_sampleValid (e : Output) : (emit e s).sampleValid = s.sampleValid := rfl
@[simp] theorem emit_registered (e : Output) : (emit e s).registered = s.registered := rfl
@[simp] theorem emit_trace (e : Output) : (emit e s).trace = s.trace ++ [e] := rfl
@[simp] theorem emit_params (e : Output) : (emit e s).params = s.params := rfl
@[simp] theorem emit_consumer (e : Output) : (emit e s).consumer = s.consumer := rfl
@[simp] theorem emit_script (e : Output) : (emit e s).script = s.script := rfl
@[simp] theorem emit_due (e : Output) : (emit e s).due = s.due := rfl
@[simp] theorem emit_reactions (e : Output) : (emit e s).reactions = s.reactions := rfl
@[simp] theorem emit_orderCount (e : Output) : (emit e s).orderCount = s.orderCount := rfl
@[simp] theorem emit_configOpen (e : Output) : (emit e s).configOpen = s.configOpen := rfl

@[simp] theorem react_phase (es : List Event) : (react es s).phase = s.phase := rfl
@[simp] theorem react_timerTop (es : List Event) : (react es s).timerTop = s.timerTop := rfl
@[simp] theorem react_timerCnt (es : List Event) : (react es s).timerCnt = s.timerCnt := rfl
@[simp] theorem react_edgeArmed (es : List Event) : (react es s).edgeArmed = s.edgeArmed := rfl
@[simp] theorem react_timingOut (es : List Event) : (react es s).timingOut = s.timingOut := rfl
@[simp] theorem react_wf (es : List Event) : (react es s).wf = s.wf := rfl
@[simp] theorem react_bitIndex (es : List Event) : (react es s).bitIndex = s.bitIndex := rfl
@[simp] theorem react_complete (es : List Event) : (react es s).complete = s.complete := rfl
@[simp] theorem react_pub (es : List Event) : (react es s).pub = s.pub := rfl
@[simp] theorem react_sampleValid (es : List Event) : (react es s).sampleValid = s.sampleValid := rfl
@[simp] theorem react_registered (es : List Event) : (react es s).registered = s.registered := rfl
@[simp] theorem react_trace (es : List Event) : (react es s).trace = s.trace := rfl
@[simp] theorem react_params (es : List Event) : (react es s).params = s.params := rfl
@[simp] theorem react_consumer (es : List Event) : (react es s).consumer = s.consumer := rfl
@[simp] theorem react_script (es : List Event) : (react es s).script = s.script := rfl
@[simp] theorem react_due (es : List Event) : (react es s).due = s.due := rfl
@[simp] theorem react_reactions (es : List Event) : (react es s).reactions = s.reactions ++ es := rfl
@[simp] theorem react_orderCount (es : List Event) : (react es s).orderCount = s.orderCount := rfl
@[simp] theorem react_configOpen (es : List Event) : (react es s).configOpen = s.configOpen := rfl

@[simp] theorem notifyValid_phase : (notifyValid s).phase = s.phase := rfl
@[simp] theorem notifyValid_timerTop : (notifyValid s).timerTop = s.timerTop := rfl
@[simp] theorem notifyValid_timerCnt : (notifyValid s).timerCnt = s.timerCnt := rfl
@[simp] theorem notifyValid_edgeArmed : (notifyValid s).edgeArmed = s.edgeArmed := rfl
@[simp] theorem notifyValid_timingOut : (notifyValid s).timingOut = s.timingOut := rfl
@[simp] theorem notifyValid_wf : (notifyValid s).wf = s.wf := rfl
@[simp] theorem notifyValid_bitIndex : (notifyValid s).bitIndex = s.bitIndex := rfl
@[simp] theorem notifyValid_complete : (notifyValid s).complete = s.complete := rfl
@[simp] theorem notifyValid_pub : (notifyValid s).pub = s.pub := rfl
@[simp] theorem notifyValid_sampleValid : (notifyValid s).sampleValid = s.sampleValid := rfl
@[simp] theorem notifyValid_registered : (notifyValid s).registered = s.registered := rfl
@[simp] theorem notifyValid_trace : (notifyValid s).trace = s.trace ++ [.notifyValid] := rfl
@[simp] theorem notifyValid_params : (notifyValid s).params = s.params := rfl
@[simp] theorem notifyValid_consumer : (notifyValid s).consumer = s.consumer := rfl
@[simp] theorem notifyValid_script : (notifyValid s).script = s.script := rfl
@[simp] theorem notifyValid_due : (notifyValid s).due = s.due := rfl
@[simp] theorem notifyValid_reactions : (notifyValid s).reactions = s.reactions ++ onValidRequests s := rfl
@[simp] theorem notifyValid_orderCount : (notifyValid s).orderCount = s.orderCount := rfl
@[simp] theorem notifyValid_configOpen : (notifyValid s).configOpen = s.configOpen := rfl

@[simp] theorem notifyInvalid_phase : (notifyInvalid s).phase = s.phase := rfl
@[simp] theorem notifyInvalid_timerTop : (notifyInvalid s).timerTop = s.timerTop := rfl
@[simp] theorem notifyInvalid_timerCnt : (notifyInvalid s).timerCnt = s.timerCnt := rfl
@[simp] theorem notifyInvalid_edgeArmed : (notifyInvalid s).edgeArmed = s.edgeArmed := rfl
@[simp] theorem notifyInvalid_timingOut : (notifyInvalid s).timingOut = s.timingOut := rfl
@[simp] theorem notifyInvalid_wf : (notifyInvalid s).wf = s.wf := rfl
@[simp] theorem notifyInvalid_bitIndex : (notifyInvalid s).bitIndex = s.bitIndex := rfl
@[simp] theorem notifyInvalid_complete : (notifyInvalid s).complete = s.complete := rfl
@[simp] theorem notifyInvalid_pub : (notifyInvalid s).pub = s.pub := rfl
@[simp] theorem notifyInvalid_sampleValid : (notifyInvalid s).sampleValid = s.sampleValid := rfl
@[simp] theorem notifyInvalid_registered : (notifyInvalid s).registered = s.registered := rfl
@[simp] theorem notifyInvalid_trace : (notifyInvalid s).trace = s.trace ++ [.notifyInvalid] := rfl
@[simp] theorem notifyInvalid_params : (notifyInvalid s).params = s.params := rfl
@[simp] theorem notifyInvalid_consumer : (notifyInvalid s).consumer = s.consumer := rfl
@[simp] theorem notifyInvalid_script : (notifyInvalid s).script = s.script := rfl
@[simp] theorem notifyInvalid_due : (notifyInvalid s).due = s.due := rfl
@[simp] theorem notifyInvalid_reactions : (notifyInvalid s).reactions = s.reactions ++ onInvalidRequests s := rfl
@[simp] theorem notifyInvalid_orderCount : (notifyInvalid s).orderCount = s.orderCount := rfl
@[simp] theorem notifyInvalid_configOpen : (notifyInvalid s).configOpen = s.configOpen := rfl

@[simp] theorem pack_phase (i : Nat) (v : Bool) : (pack i v s).phase = s.phase := rfl
@[simp] theorem pack_timerTop (i : Nat) (v : Bool) : (pack i v s).timerTop = s.timerTop := rfl
@[simp] theorem pack_timerCnt (i : Nat) (v : Bool) : (pack i v s).timerCnt = s.timerCnt := rfl
@[simp] theorem pack_edgeArmed (i : Nat) (v : Bool) : (pack i v s).edgeArmed = s.edgeArmed := rfl
@[simp] theorem pack_timingOut (i : Nat) (v : Bool) : (pack i v s).timingOut = s.timingOut := rfl
@[simp] theorem pack_wf (i : Nat) (v : Bool) : (pack i v s).wf = packMemory i v s.wf := rfl
@[simp] theorem pack_bitIndex (i : Nat) (v : Bool) : (pack i v s).bitIndex = s.bitIndex := rfl
@[simp] theorem pack_complete (i : Nat) (v : Bool) : (pack i v s).complete = s.complete := rfl
@[simp] theorem pack_pub (i : Nat) (v : Bool) : (pack i v s).pub = s.pub := rfl
@[simp] theorem pack_sampleValid (i : Nat) (v : Bool) : (pack i v s).sampleValid = s.sampleValid := rfl
@[simp] theorem pack_registered (i : Nat) (v : Bool) : (pack i v s).registered = s.registered := rfl
@[simp] theorem pack_trace (i : Nat) (v : Bool) : (pack i v s).trace = s.trace := rfl
@[simp] theorem pack_params (i : Nat) (v : Bool) : (pack i v s).params = s.params := rfl
@[simp] theorem pack_consumer (i : Nat) (v : Bool) : (pack i v s).consumer = s.consumer := rfl
@[simp] theorem pack_script (i : Nat) (v : Bool) : (pack i v s).script = s.script := rfl
@[simp] theorem pack_due (i : Nat) (v : Bool) : (pack i v s).due = s.due := rfl
@[simp] theorem pack_reactions (i : Nat) (v : Bool) : (pack i v s).reactions = s.reactions := rfl
@[simp] theorem pack_orderCount (i : Nat) (v : Bool) : (pack i v s).orderCount = s.orderCount := rfl
@[simp] theorem pack_configOpen (i : Nat) (v : Bool) : (pack i v s).configOpen = s.configOpen := rfl

@[simp] theorem publish_phase : (publish s).phase = s.phase := rfl
@[simp] theorem publish_timerTop : (publish s).timerTop = s.timerTop := rfl
@[simp] theorem publish_timerCnt : (publish s).timerCnt = s.timerCnt := rfl
@[simp] theorem publish_edgeArmed : (publish s).edgeArmed = s.edgeArmed := rfl
@[simp] theorem publish_timingOut : (publish s).timingOut = s.timingOut := rfl
@[simp] theorem publish_wf : (publish s).wf = s.wf := rfl
@[simp] theorem publish_bitIndex : (publish s).bitIndex = s.bitIndex := rfl
@[simp] theorem publish_complete : (publish s).complete = s.complete := rfl
@[simp] theorem publish_pub : (publish s).pub = Memory.image s.wf := rfl
@[simp] theorem publish_sampleValid : (publish s).sampleValid = true := rfl
@[simp] theorem publish_registered : (publish s).registered = s.registered := rfl
@[simp] theorem publish_trace : (publish s).trace = s.trace := rfl
@[simp] theorem publish_params : (publish s).params = s.params := rfl
@[simp] theorem publish_consumer : (publish s).consumer = s.consumer := rfl
@[simp] theorem publish_script : (publish s).script = s.script := rfl
@[simp] theorem publish_due : (publish s).due = s.due := rfl
@[simp] theorem publish_reactions : (publish s).reactions = s.reactions := rfl
@[simp] theorem publish_orderCount : (publish s).orderCount = s.orderCount := rfl
@[simp] theorem publish_configOpen : (publish s).configOpen = s.configOpen := rfl

@[simp] theorem frameReset_phase : (frameReset s).phase = s.phase := rfl
@[simp] theorem frameReset_timerTop : (frameReset s).timerTop = s.timerTop := rfl
@[simp] theorem frameReset_timerCnt : (frameReset s).timerCnt = s.timerCnt := rfl
@[simp] theorem frameReset_edgeArmed : (frameReset s).edgeArmed = s.edgeArmed := rfl
@[simp] theorem frameReset_timingOut : (frameReset s).timingOut = s.timingOut := rfl
@[simp] theorem frameReset_wf : (frameReset s).wf = [] := rfl
@[simp] theorem frameReset_bitIndex : (frameReset s).bitIndex = 0 := rfl
@[simp] theorem frameReset_complete : (frameReset s).complete = false := rfl
@[simp] theorem frameReset_pub : (frameReset s).pub = s.pub := rfl
@[simp] theorem frameReset_sampleValid : (frameReset s).sampleValid = s.sampleValid := rfl
@[simp] theorem frameReset_registered : (frameReset s).registered = s.registered := rfl
@[simp] theorem frameReset_trace : (frameReset s).trace = s.trace := rfl
@[simp] theorem frameReset_params : (frameReset s).params = s.params := rfl
@[simp] theorem frameReset_consumer : (frameReset s).consumer = s.consumer := rfl
@[simp] theorem frameReset_script : (frameReset s).script = s.script := rfl
@[simp] theorem frameReset_due : (frameReset s).due = s.due := rfl
@[simp] theorem frameReset_reactions : (frameReset s).reactions = s.reactions := rfl
@[simp] theorem frameReset_orderCount : (frameReset s).orderCount = s.orderCount := rfl
@[simp] theorem frameReset_configOpen : (frameReset s).configOpen = s.configOpen := rfl

@[simp] theorem startTimer_phase (top : TimerWord) : (startTimer top s).phase = s.phase := rfl
@[simp] theorem startTimer_timerTop (top : TimerWord) : (startTimer top s).timerTop = top := rfl
@[simp] theorem startTimer_timerCnt (top : TimerWord) : (startTimer top s).timerCnt = 0 := rfl
@[simp] theorem startTimer_edgeArmed (top : TimerWord) : (startTimer top s).edgeArmed = s.edgeArmed := rfl
@[simp] theorem startTimer_timingOut (top : TimerWord) : (startTimer top s).timingOut = s.timingOut := rfl
@[simp] theorem startTimer_wf (top : TimerWord) : (startTimer top s).wf = s.wf := rfl
@[simp] theorem startTimer_bitIndex (top : TimerWord) : (startTimer top s).bitIndex = s.bitIndex := rfl
@[simp] theorem startTimer_complete (top : TimerWord) : (startTimer top s).complete = s.complete := rfl
@[simp] theorem startTimer_pub (top : TimerWord) : (startTimer top s).pub = s.pub := rfl
@[simp] theorem startTimer_sampleValid (top : TimerWord) : (startTimer top s).sampleValid = s.sampleValid := rfl
@[simp] theorem startTimer_registered (top : TimerWord) : (startTimer top s).registered = s.registered := rfl
@[simp] theorem startTimer_trace (top : TimerWord) : (startTimer top s).trace = s.trace := rfl
@[simp] theorem startTimer_params (top : TimerWord) : (startTimer top s).params = s.params := rfl
@[simp] theorem startTimer_consumer (top : TimerWord) : (startTimer top s).consumer = s.consumer := rfl
@[simp] theorem startTimer_script (top : TimerWord) : (startTimer top s).script = s.script := rfl
@[simp] theorem startTimer_due (top : TimerWord) : (startTimer top s).due = s.due := rfl
@[simp] theorem startTimer_reactions (top : TimerWord) : (startTimer top s).reactions = s.reactions := rfl
@[simp] theorem startTimer_orderCount (top : TimerWord) : (startTimer top s).orderCount = s.orderCount := rfl
@[simp] theorem startTimer_configOpen (top : TimerWord) : (startTimer top s).configOpen = s.configOpen := rfl

end Sys2Proof.Machine
end

