-- ==== Sys2Proof/Laws/Ops.lean ====
section
/-!
SUPPORT. One lemma per shared operation that says all it does.
-/
namespace Sys2Proof.Machine

/-! ## Timing Controller -/

/-- The post-state of the Idle->Reading transition (R82). -/
theorem tickIdle_eq (s : State) : tickIdle s =
    { s with
      phase := .reading, timerTop := s.params.tRead, timerCnt := 0, edgeArmed := true, timingOut := true,
      wf := [], bitIndex := 0, complete := false, sampleValid := false,
      trace := s.trace ++ [.trigFall, .trigRise, .notifyInvalid],
      reactions := s.reactions ++ onInvalidRequests s, configOpen := false } := by
  simp [tickIdle, notifyInvalid, react, emit, frameReset, setArmed, clearValid, startTimer, closeConfig,
    Memory.cleared, onInvalidRequests]

/-- The post-state of the Reading->Idle transition (R83). -/
theorem tickReading_eq (s : State) : tickReading s =
    { s with phase := .idle, timerTop := s.params.tIdle, timerCnt := 0, edgeArmed := false,
             configOpen := false } := rfl

theorem tick_of_idle {s : State} (h : s.phase = .idle) : tick s = tickIdle s := by simp [tick, h]

theorem tick_of_reading {s : State} (h : s.phase = .reading) : tick s = tickReading s := by simp [tick, h]

theorem countTick_of_expiry {s : State} (h : s.timerTop.toNat ≤ s.timerCnt.toNat + 1) :
    countTick s = tick s := by simp [countTick, h]

theorem countTick_of_running {s : State} (h : s.timerCnt.toNat + 1 < s.timerTop.toNat) :
    countTick s = { s with timerCnt := s.timerCnt + 1 } := by
  simp [countTick, Nat.not_le.mpr h]

/-! ## Edge Sampler -/

theorem accepts_iff (s : State) : accepts s = true ↔ s.edgeArmed = true ∧ s.bitIndex.toNat < Config.nBits := by
  simp [accepts]

/-- An edge that is not accepted (R100 steps 1 and 2). -/
theorem edge_of_ignored {s : State} (d : Bool) (h : accepts s = false) : edge d s = s := by
  simp [edge, h]

theorem toNat_succ_index {b : BitVec 6} (h : b.toNat < Config.nBits) : (b + 1).toNat = b.toNat + 1 := by
  simp only [Config.nBits] at h
  rw [BitVec.toNat_add]
  simp; omega

/-- An accepted edge before the 48th (R100 steps 3 and 4). -/
theorem edge_of_middle {s : State} (d : Bool) (ha : s.edgeArmed = true)
    (h : s.bitIndex.toNat + 1 < Config.nBits) :
    edge d s = { s with wf := packMemory s.bitIndex.toNat d s.wf, bitIndex := s.bitIndex + 1 } := by
  have hacc : accepts s = true := (accepts_iff s).2 ⟨ha, by omega⟩
  have hne : (s.bitIndex + 1).toNat ≠ Config.nBits := by rw [toNat_succ_index (by omega)]; omega
  simp only [edge, hacc, if_true, sampleBit, completeFrame, pack]
  exact if_neg hne

/-- The 48th accepted edge (R100 steps 3 to 8). -/
theorem edge_of_last {s : State} (d : Bool) (ha : s.edgeArmed = true)
    (h : s.bitIndex.toNat + 1 = Config.nBits) :
    edge d s =
      { s with
        wf := packMemory s.bitIndex.toNat d s.wf, bitIndex := s.bitIndex + 1, complete := true,
        pub := Memory.image (packMemory s.bitIndex.toNat d s.wf), sampleValid := true,
        trace := s.trace ++ [.notifyValid], reactions := s.reactions ++ onValidRequests s } := by
  have hacc : accepts s = true := (accepts_iff s).2 ⟨ha, by omega⟩
  have heq : (s.bitIndex + 1).toNat = Config.nBits := by rw [toNat_succ_index (by omega)]; omega
  simp only [edge, hacc, if_true, sampleBit, completeFrame, pack]
  exact if_pos heq

/-- The three things an edge can do. -/
theorem edge_cases (d : Bool) (s : State) :
    (accepts s = false ∧ edge d s = s) ∨
    (s.edgeArmed = true ∧ s.bitIndex.toNat + 1 < Config.nBits ∧
      edge d s = { s with wf := packMemory s.bitIndex.toNat d s.wf, bitIndex := s.bitIndex + 1 }) ∨
    (s.edgeArmed = true ∧ s.bitIndex.toNat + 1 = Config.nBits ∧
      edge d s =
        { s with
          wf := packMemory s.bitIndex.toNat d s.wf, bitIndex := s.bitIndex + 1, complete := true,
          pub := Memory.image (packMemory s.bitIndex.toNat d s.wf), sampleValid := true,
          trace := s.trace ++ [.notifyValid], reactions := s.reactions ++ onValidRequests s }) := by
  by_cases hacc : accepts s = true
  · obtain ⟨ha, hlt⟩ := (accepts_iff s).1 hacc
    rcases Nat.lt_or_eq_of_le (Nat.succ_le_of_lt hlt) with h | h
    · exact .inr (.inl ⟨ha, h, edge_of_middle d ha h⟩)
    · exact .inr (.inr ⟨ha, h, edge_of_last d ha h⟩)
  · exact .inl ⟨by simpa using hacc, edge_of_ignored d (by simpa using hacc)⟩

/-! ## Reset -/

/-- The post-state of `RESET` (R170). -/
theorem resetBlock_eq (s : State) : resetBlock s =
    { phase := .idle, timerTop := s.params.tIdle, timerCnt := 0, edgeArmed := false, timingOut := true,
      wf := [], bitIndex := 0, complete := false, pub := Config.pubReset, sampleValid := false,
      registered := none, trace := [], params := s.params, consumer := s.consumer, script := s.script,
      due := [], reactions := [], orderCount := s.orderCount, configOpen := true } := rfl

end Sys2Proof.Machine
end

