-- ==== Sys2Proof/Laws/PerInstr.lean ====
section
/-!
SUPPORT. The statement family `EventWord`: an operation that has an event word is read back from it, in
the phase that selects it (R61, R64, R81).
-/
namespace Sys2Proof.Laws.EventWord

/-- The phases in which the dispatch can select the operation: each arm of `TICK` has one (R81). -/
def selectedIn : Instr → Phase → Bool
  | .tickIdle, ph => ph == .idle
  | .tickReading, ph => ph == .reading
  | .reset, _ | .cnt, _ | .edge0, _ | .edge1, _ | .read, _ | .validq, _ | .regcb, _ | .nop, _
  | .frameReset, _ | .pack _ _, _ | .decode _, _ | .encode _, _ | .publish, _ | .notifyValid, _
  | .notifyInvalid, _ => true

/-- Every event word of the operation decodes to it alone. -/
def Statement (i : Instr) : Prop :=
  ∀ ph, selectedIn i ph = true → ∀ w ∈ Sys2Proof.encode i, decodeWord ph w = [i]

/-- An operation without an event word has nothing to be read back from. -/
theorem of_no_word {i : Instr} (h : Sys2Proof.encode i = []) : Statement i := by
  intro _ _ w hw
  simp [h] at hw

theorem reset : Statement .reset := by intro ph; cases ph <;> decide
theorem cnt : Statement .cnt := by intro ph; cases ph <;> decide
theorem tickIdle : Statement .tickIdle := by intro ph; cases ph <;> decide
theorem tickReading : Statement .tickReading := by intro ph; cases ph <;> decide
theorem edge0 : Statement .edge0 := by intro ph; cases ph <;> decide
theorem edge1 : Statement .edge1 := by intro ph; cases ph <;> decide
theorem read : Statement .read := by intro ph; cases ph <;> decide
theorem validq : Statement .validq := by intro ph; cases ph <;> decide
theorem regcb : Statement .regcb := by intro ph; cases ph <;> decide
theorem nop : Statement .nop := by intro ph; cases ph <;> decide
theorem frameReset : Statement .frameReset := of_no_word rfl
theorem pack (i : BitVec 6) (v : Bool) : Statement (.pack i v) := of_no_word rfl
theorem decode (w : Frame) : Statement (.decode w) := of_no_word rfl
theorem encode (sample : JoystickSample) : Statement (.encode sample) := of_no_word rfl
theorem publish : Statement .publish := of_no_word rfl
theorem notifyValid : Statement .notifyValid := of_no_word rfl
theorem notifyInvalid : Statement .notifyInvalid := of_no_word rfl

end Sys2Proof.Laws.EventWord
end

