-- ==== Sys2Proof/Laws/Step.lean ====
section
/-!
SUPPORT. What a step can do: which operation it fetches, and what that operation answers.
-/
namespace Sys2Proof.Machine

/-! ## The fetch -/

/-- What a fetch that runs an operation has chosen. -/
theorem fetch_run {s u : State} {i : Instr} (h : fetch s = .run i u) :
    paramsInRange s.params = true ∧
    ((∃ e rest, s.reactions = e :: rest ∧ observerMay e = true ∧ i = select s.phase e ∧
        u = { s with reactions := rest }) ∨
     (s.reactions = [] ∧ ∃ e rest, s.due = e :: rest ∧ i = select s.phase e ∧ u = { s with due := rest }) ∨
     (s.reactions = [] ∧ s.due = [] ∧ s.script = [] ∧ i = .nop ∧ u = s) ∨
     (s.reactions = [] ∧ s.due = [] ∧ ∃ w rest, s.script = w :: rest ∧
        ((serialOrder (strobes w) (Config.freeOrder s.orderCount) = [] ∧ i = .nop ∧
            u = { s with script := rest, orderCount := s.orderCount + 1 }) ∨
         (∃ e es, serialOrder (strobes w) (Config.freeOrder s.orderCount) = e :: es ∧ i = select s.phase e ∧
            u = { s with script := rest, orderCount := s.orderCount + 1, due := es })))) := by
  unfold fetch at h
  split at h
  case isFalse => cases h
  case isTrue hp =>
    refine ⟨hp, ?_⟩
    split at h
    · next e rest hr =>
      split at h
      · next hm => cases h; exact .inl ⟨e, rest, hr, hm, rfl, rfl⟩
      · cases h
    · next hr =>
      split at h
      · next hd =>
        unfold fetchWord at h
        rcases hs : s.script with _ | ⟨w, rest⟩
        · simp only [hs, decodeBytes] at h
          cases h
          exact .inr (.inr (.inl ⟨hr, hd, rfl, rfl, rfl⟩))
        · simp only [hs, decodeBytes] at h
          refine .inr (.inr (.inr ⟨hr, hd, w, rest, rfl, ?_⟩))
          rcases ho : serialOrder (strobes w) (Config.freeOrder s.orderCount) with _ | ⟨e, es⟩
          · simp only [ho, runFirst] at h; cases h; exact .inl ⟨rfl, rfl, rfl⟩
          · simp only [ho, runFirst] at h; cases h; exact .inr ⟨e, es, rfl, rfl, rfl⟩
      · next hd =>
        rcases hq : s.due with _ | ⟨e, rest⟩
        · exact absurd hq hd
        · simp only [hq, runFirst] at h
          cases h
          exact .inr (.inl ⟨hr, e, rest, rfl, rfl, rfl⟩)

/-- A fetch writes only the model's own queues, and what it runs is the dispatch of an input event or a
`NOP`. -/
theorem fetch_frame {s u : State} {i : Instr} (h : fetch s = .run i u) :
    (i = .nop ∨ ∃ e, i = select s.phase e) ∧
    u = { s with script := u.script, due := u.due, reactions := u.reactions, orderCount := u.orderCount } := by
  rcases (fetch_run h).2 with ⟨e, _, _, _, hi, hu⟩ | ⟨_, e, _, _, hi, hu⟩ | ⟨_, _, _, hi, hu⟩ |
    ⟨_, _, _, _, _, ⟨_, hi, hu⟩ | ⟨e, _, _, hi, hu⟩⟩
  · exact ⟨.inr ⟨e, hi⟩, by rw [hu]⟩
  · exact ⟨.inr ⟨e, hi⟩, by rw [hu]⟩
  · exact ⟨.inl hi, by rw [hu]⟩
  · exact ⟨.inl hi, by rw [hu]⟩
  · exact ⟨.inr ⟨e, hi⟩, by rw [hu]⟩

/-- A fetch stops only on a parameter out of range or on a request no observer may make. -/
theorem fetch_stop {s : State} {r : Refusal} (h : fetch s = .stop r) :
    (paramsInRange s.params = false ∧ r = .timerParameterOutOfRange) ∨
    (∃ e rest, s.reactions = e :: rest ∧ observerMay e = false ∧ r = .observerReentry) := by
  unfold fetch at h
  split at h
  case isFalse hp => cases h; exact .inl ⟨by simpa using hp, rfl⟩
  case isTrue =>
    split at h
    · next e rest hr =>
      split at h
      · cases h
      · next hm => cases h; exact .inr ⟨e, rest, hr, by simpa using hm, rfl⟩
    · split at h
      · unfold fetchWord at h
        split at h
        · cases h
        · unfold runFirst at h; split at h <;> cases h
      · unfold runFirst at h; split at h <;> cases h

/-! ## The operations -/

/-- What an input event can do (one line per event), in a next state. -/
theorem exec_select_next {ph : Phase} {e : Event} {u t : State} (h : exec (select ph e) u = .next t) :
    (e = .reset ∧ t = resetBlock u) ∨ (e = .cnt ∧ t = countTick u) ∨
    (e = .tick ∧ ph = .idle ∧ t = tickIdle u) ∨ (e = .tick ∧ ph = .reading ∧ t = tickReading u) ∨
    (∃ d, e = .edge d ∧ t = edge d u) ∨
    (e = .read ∧ t = emit (.returned (.sample u.pub)) u) ∨
    (e = .validq ∧ t = emit (.returned (.validity u.sampleValid)) u) ∨
    (e = .regcb ∧ u.registered = none ∧ u.configOpen = true ∧ t = { u with registered := some u.consumer }) := by
  rcases e with _ | _ | _ | d | _ | _ | _
  · cases h; exact .inl ⟨rfl, rfl⟩
  · cases h; exact .inr (.inl ⟨rfl, rfl⟩)
  · cases ph
    · cases h; exact .inr (.inr (.inl ⟨rfl, rfl, rfl⟩))
    · cases h; exact .inr (.inr (.inr (.inl ⟨rfl, rfl, rfl⟩)))
  · cases d <;> (cases h; exact .inr (.inr (.inr (.inr (.inl ⟨_, rfl, rfl⟩)))))
  · cases h; exact .inr (.inr (.inr (.inr (.inr (.inl ⟨rfl, rfl⟩)))))
  · cases h; exact .inr (.inr (.inr (.inr (.inr (.inr (.inl ⟨rfl, rfl⟩))))))
  · change execRegcb u = .next t at h
    unfold execRegcb at h
    split at h
    · cases h
    · next hn =>
      split at h
      · next hc =>
        cases h
        refine .inr (.inr (.inr (.inr (.inr (.inr (.inr ⟨rfl, ?_, hc, rfl⟩))))))
        simpa using hn
      · cases h

/-- A step that answers a next state has fetched an operation, and that operation has answered it. -/
theorem step_next {s t : State} (h : step s = .next t) :
    ∃ i u, fetch s = .run i u ∧ exec i u = .next t := by
  unfold step at h
  split at h
  · next i u hf => exact ⟨i, u, hf, h⟩
  · cases h

/-- The same, in terms of the state before and the state after: `u` is `s` with the model's own queues
moved, and `t` is what one transition makes of it. -/
theorem step_cases {s t : State} (h : step s = .next t) :
    ∃ u : State,
      u = { s with script := u.script, due := u.due, reactions := u.reactions, orderCount := u.orderCount } ∧
      (t = u ∨ t = resetBlock u ∨ (s.phase = .idle ∧ t = tickIdle u) ∨
        (s.phase = .reading ∧ t = tickReading u) ∨ t = { u with timerCnt := t.timerCnt } ∨
        (∃ d, t = edge d u) ∨ (∃ r, t = emit (.returned r) u) ∨
        t = { u with registered := some u.consumer }) := by
  obtain ⟨i, u, hf, he⟩ := step_next h
  obtain ⟨hi, hu⟩ := fetch_frame hf
  refine ⟨u, hu, ?_⟩
  have hph : u.phase = s.phase := by rw [hu]
  rcases hi with rfl | ⟨e, rfl⟩
  · cases he; exact .inl rfl
  · rcases exec_select_next he with ⟨_, rfl⟩ | ⟨_, rfl⟩ | ⟨_, hp, rfl⟩ | ⟨_, hp, rfl⟩ | ⟨d, _, rfl⟩ |
      ⟨_, rfl⟩ | ⟨_, rfl⟩ | ⟨_, _, _, rfl⟩
    · exact .inr (.inl rfl)
    · unfold countTick tick
      repeat' split
      · next hp => exact .inr (.inr (.inl ⟨hph ▸ hp, rfl⟩))
      · next hp => exact .inr (.inr (.inr (.inl ⟨hph ▸ hp, rfl⟩)))
      · exact .inr (.inr (.inr (.inr (.inl rfl))))
    · exact .inr (.inr (.inl ⟨hp, rfl⟩))
    · exact .inr (.inr (.inr (.inl ⟨hp, rfl⟩)))
    · exact .inr (.inr (.inr (.inr (.inr (.inl ⟨d, rfl⟩)))))
    · exact .inr (.inr (.inr (.inr (.inr (.inr (.inl ⟨_, rfl⟩))))))
    · exact .inr (.inr (.inr (.inr (.inr (.inr (.inl ⟨_, rfl⟩))))))
    · exact .inr (.inr (.inr (.inr (.inr (.inr (.inr rfl))))))

/-- A placed word with one event is what the next step performs. -/
theorem step_withFetchWord {s : State} {w : Nat} {e : Event} (hp : paramsInRange s.params = true)
    (hw : strobes (BitVec.ofNat 8 w) = [e]) :
    step (s.withFetchWord 8 w) =
      exec (select s.phase e) { s with due := [], reactions := [], orderCount := s.orderCount + 1 } := by
  simp [step, State.withFetchWord, placeWord, fetch, hp, fetchWord, decodeBytes, hw, serialOrder, insertAt,
    runFirst]

/-! ## Serial orders -/

theorem insertAt_perm (e : Event) : ∀ (l : List Event) (k : Nat), (insertAt e l k).Perm (e :: l)
  | [], _ => .refl _
  | _ :: _, 0 => .refl _
  | x :: xs, k + 1 => ((insertAt_perm e xs k).cons x).trans (.swap e x xs)

theorem serialOrder_perm : ∀ (l : List Event) (n : Nat), (serialOrder l n).Perm l
  | [], _ => .refl _
  | e :: es, _ => (insertAt_perm e _ _).trans ((serialOrder_perm es _).cons e)

end Sys2Proof.Machine
end

