-- ==== Sys2Proof/Laws/Run.lean ====
section
/-!
SUPPORT. Sequences of operations, and the operations with an operand.
-/
namespace Sys2Proof.Machine

/-- A sequence is run by running its parts. -/
theorem runAll_append (before later : List Instr) (s : State) :
    runAll (before ++ later) s =
      match runAll before s with
      | .next t => runAll later t
      | .fault f => .fault f
      | .refused r => .refused r := by
  induction before generalizing s with
  | nil => rfl
  | cons i is ih =>
    simp only [List.cons_append, runAll]
    cases exec i s <;> simp [ih]

/-- The two rows of `EDGE` are one operation with an operand. -/
theorem exec_edgeOp (d : Bool) (s : State) : exec (edgeOp d) s = .next (edge d s) := by cases d <;> rfl

/-- `PACK` at a stream index of the address map. -/
theorem exec_pack_of_inMap {i : BitVec 6} (v : Bool) (s : State) (h : inMap i.toNat = true) :
    exec (.pack i v) s = .next (pack i.toNat v s) := by simp [exec, execPack, h]

/-- What `PACK` does to the buffer, bit by bit and byte by byte. -/
theorem packMemory_storesBit (m : Memory) (i : Nat) (v : Bool) (h : i < Config.nBits) :
    storesBit m (packMemory i v m) i v :=
  ⟨fun j => packMemory_getLsbD m i j v h, fun k hk => packMemory_byte_of_ne m i k v hk⟩

end Sys2Proof.Machine
end

