-- ==== Sys2Proof/Tests/Slice0.lean ====
section
/-!
SUPPORT. The model's own tests, with expected results from spec/95_test_vectors.md and the worked examples
of the rules, and one witness for the hypotheses of every statement.
-/
namespace Sys2Proof.Tests

open Sys2Proof Sys2Proof.Machine

/-! ## Helpers -/

/-- The next state, if there is one. -/
def after : Answer → Option State
  | .next t => some t
  | .fault _ => none
  | .refused _ => none

/-- The buffer that holds a frame. -/
def memoryOf (v : Frame) : Memory :=
  (bytesOfFrame v).zipIdx.foldl (fun m p => Memory.put m p.2 p.1) []

/-- A state given as the tuples of spec/95_test_vectors.md give it: phase, `bit_index`, `WF`,
`sample_valid`, `pub`; the rest as the invariants of R25 have it. -/
def stateAt (ph : Phase) (index : BitVec 6) (frame : Frame) (valid : Bool) (pub : Frame) : State :=
  { State.reset with
    phase := ph
    edgeArmed := decide (ph = .reading)
    timerTop := if ph = .reading then 2000 else 8000
    bitIndex := index
    wf := memoryOf frame
    complete := decide (index = 48)
    sampleValid := valid
    pub := pub }

/-- What a test looks at, in the order of the tuples of spec/95_test_vectors.md. -/
structure View where
  phase       : Phase
  edgeArmed   : Bool
  bitIndex    : BitVec 6
  frame       : Frame
  complete    : Bool
  sampleValid : Bool
  pub         : Frame
  deriving DecidableEq, Repr

/-- The tuple of a state. -/
def view (s : State) : View :=
  ⟨s.phase, s.edgeArmed, s.bitIndex, Memory.image s.wf, s.complete, s.sampleValid, s.pub⟩

/-- The timer elements. -/
def timer (s : State) : Phase × TimerWord × TimerWord := (s.phase, s.timerTop, s.timerCnt)

/-! ## Well-formedness -/

theorem test_wellFormed_pack_last : Instr.wellFormed (.pack 47 true) = true := by decide

/-- The one check: a stream index outside the address map. -/
theorem test_wellFormed_refuses_pack_48 : Instr.wellFormed (.pack 48 true) = false := by decide

/-! ## Decoding: the words of R61, bit by bit (cfg psc rst tmr cke dat rd vq) -/

theorem test_decode_reset : decodeTableWord 8 0b00100000 = some .reset := by decide
theorem test_decode_cnt : decodeTableWord 8 0b01000000 = some .cnt := by decide
theorem test_decode_tickIdle : decodeTableWord 8 0b00010000 = some .tickIdle := by decide
theorem test_decode_tickReading : decodeWord .reading 0b00010000#8 = [.tickReading] := by decide
theorem test_decode_edge0 : decodeTableWord 8 0b00001000 = some .edge0 := by decide
theorem test_decode_edge1 : decodeTableWord 8 0b00001100 = some .edge1 := by decide
theorem test_decode_read : decodeTableWord 8 0b00000010 = some .read := by decide
theorem test_decode_validq : decodeTableWord 8 0b00000001 = some .validq := by decide
theorem test_decode_regcb : decodeTableWord 8 0b10000000 = some .regcb := by decide
/-- `dat` without `cke` is ignored (R65). -/
theorem test_decode_nop : decodeTableWord 8 0b00000100 = some .nop := by decide
/-- `rst` wins over everything (R64). -/
theorem test_decode_reset_wins : strobes 0b11111111#8 = [.reset] := by decide
/-- Several strobes in one word (R64). -/
theorem test_decode_together : strobes 0b00011110#8 = [.tick, .edge true, .read] := by decide
/-- Only the empty script is rejected, by name. -/
theorem test_decode_empty : decodeBytes [] = .error .noEventWord := rfl
/-- A frame of fewer than six bytes is rejected, by name. -/
theorem test_decode_short : frameOfBytes [1, 2, 3, 4, 5] = .error .shortFrame := rfl

/-- The bytes of program P1 up to its first READ: `FRAME 0x000000040001` (R68). -/
theorem test_script_P1 :
    encodeScript [.reset, .regcb] ++ scriptRequest ++ scriptFrame 0x000000040001 ++ encodeScript [.read] =
      [0x20, 0x80, 0x10, 0x0C] ++ List.replicate 17 0x08 ++ [0x0C] ++ List.replicate 29 0x08 ++ [0x02] := by
  decide

theorem test_phase_code : Phase.code .idle = 0 ∧ Phase.code .reading = 1 := by decide

/-! ## Frame Codec: table 2.1 and 2.2 -/

/-- Frame A. -/
theorem test_decode_frame_A : decodeFrame 0xA6AAAAD54B21 =
    ⟨true, false, false, false, false, true, false, false, true, 677, 346, 85, 42, 9, false, true⟩ := by
  decide

/-- Frame B. -/
theorem test_encode_frame_B : encodeFrame
    ⟨false, true, false, true, false, false, true, false, false, 300, 700, 64, 32, 3, true, false⟩ =
      0x4E0815E2584A := by decide

/-- The bytes of frame C, and the frame of its bytes. -/
theorem test_bytes_frame_C : bytesOfFrame 0x123456789ABC = [0xBC, 0x9A, 0x78, 0x56, 0x34, 0x12] ∧
    frameOfSix 0xBC 0x9A 0x78 0x56 0x34 0x12 = 0x123456789ABC := by decide

/-- `r` = 63 straddles bytes 4 and 5. -/
theorem test_decode_straddle : (decodeFrame 0x03F000000000).r = 63 ∧ (decodeFrame 0x000FE0000000).m = 127 := by
  decide

theorem test_exec_decode : (after (exec (.decode 0x000000040001) State.reset)).map (·.trace) =
    some [.returned (.fields
      ⟨true, false, false, false, false, false, false, false, false, 512, 0, 0, 0, 0, false, false⟩)] := by
  decide

theorem test_exec_encode : (after (exec (.encode
    ⟨true, false, false, false, false, false, false, false, false, 512, 0, 0, 0, 0, false, false⟩)
      State.reset)).map (·.trace) = some [.returned (.image 0x000000040001)] := by decide

/-- `PACK(18, 1)`. -/
theorem test_pack_18 : (after (exec (.pack 18 true) (stateAt .reading 18 0x000000000001 false 0))).map
    (fun t => (Memory.image t.wf, t.wf)) = some (0x000000040001, [(0, 0x01), (2, 0x04)]) := by decide

/-- `PACK(47, 1)`. -/
theorem test_pack_47 : (after (exec (.pack 47 true) (stateAt .reading 47 0x7FFFFFFFFFFF false 0))).map
    (fun t => Memory.image t.wf) = some 0xFFFFFFFFFFFF := by decide

/-! ## Edge Sampler: table 2.3 -/

theorem test_edge1_at_18 : (after (exec .edge1 (stateAt .reading 18 0 false 7))).map view =
    some ⟨.reading, true, 19, 0x000000040000, false, false, 7⟩ := by decide

/-- The 48th edge. -/
theorem test_edge1_completes :
    (after (exec .edge1 (stateAt .reading 47 0x7FFFFFFFFFFF false 7))).map (fun t => (view t, t.trace)) =
      some (⟨.reading, true, 48, 0xFFFFFFFFFFFF, true, true, 0xFFFFFFFFFFFF⟩, [.notifyValid]) := by decide

/-- The all-zero frame is complete and published. -/
theorem test_edge0_completes : (after (exec .edge0 (stateAt .reading 47 0 false 7))).map view =
    some ⟨.reading, true, 48, 0, true, true, 0⟩ := by decide

/-- The 49th edge changes nothing (C1); nor does an edge in Idle. -/
theorem test_edge_ignored :
    (after (exec .edge1 (stateAt .reading 48 0x000000040001 true 0x000000040001))).map view =
      some ⟨.reading, true, 48, 0x000000040001, true, true, 0x000000040001⟩ ∧
    (after (exec .edge1 (stateAt .idle 30 0x00003FFFFFFF false 0xA6AAAAD54B21))).map view =
      some ⟨.idle, false, 30, 0x00003FFFFFFF, false, false, 0xA6AAAAD54B21⟩ := by decide

/-! ## Timing Controller: tables 2.4 and 2.5 -/

theorem test_tickIdle :
    (after (exec .tickIdle (stateAt .idle 48 0x000000040001 true 0x000000040001))).map
      (fun t => (view t, t.timerTop, t.trace)) =
    some (⟨.reading, true, 0, 0, false, false, 0x000000040001⟩, 2000,
      [.trigFall, .trigRise, .notifyInvalid]) := by decide

theorem test_tickReading :
    (after (exec .tickReading (stateAt .reading 30 0x00003FFFFFFF false 0xA6AAAAD54B21))).map
      (fun t => (view t, t.timerTop, t.trace)) =
    some (⟨.idle, false, 30, 0x00003FFFFFFF, false, false, 0xA6AAAAD54B21⟩, 8000, []) := by decide

/-- The last row is of 95_test_vectors.md 2.5, against R85's worked example (log entry 23). -/
theorem test_cnt_counts :
    (after (exec .cnt { stateAt .idle 0 0 false 0 with timerCnt := 7998 })).map timer =
      some (.idle, 8000, 7999) ∧
    (after (exec .cnt { stateAt .reading 0 0 false 0 with timerCnt := 1998 })).map timer =
      some (.reading, 2000, 1999) := by decide

theorem test_cnt_ticks :
    (after (exec .cnt { stateAt .idle 0 0 false 0 with timerCnt := 7999 })).map timer =
      some (.reading, 2000, 0) ∧
    (after (exec .cnt { stateAt .reading 0 0 false 0 with timerCnt := 1999 })).map timer =
      some (.idle, 8000, 0) := by decide

/-- The worked example of R84. -/
theorem test_frameReset : (after (exec .frameReset (stateAt .reading 48 0xFFFFFFFFFFFF true 9))).map view =
    some ⟨.reading, true, 0, 0, false, true, 9⟩ := by decide

/-! ## Snapshot Synchronizer: table 2.6 and the worked examples -/

/-- The worked example of R130. -/
theorem test_publish : (after (exec .publish (stateAt .reading 48 0x000000040001 false 7))).map
    (fun t => (t.pub, t.sampleValid)) = some (0x000000040001, true) := by decide

/-- A stale sample is still read. -/
theorem test_read_stale : (after (exec .read (stateAt .idle 30 0x00003FFFFFFF false 0x000000040001))).map
    (·.trace) = some [.returned (.sample 0x000000040001)] := by decide

theorem test_validq : (after (exec .validq (stateAt .idle 48 1 true 1))).map (·.trace) =
    some [.returned (.validity true)] := by decide

theorem test_notifyValid : (after (exec .notifyValid State.reset)).map (·.trace) = some [.notifyValid] := by
  decide

theorem test_notifyInvalid : (after (exec .notifyInvalid State.reset)).map (·.trace) =
    some [.notifyInvalid] := by decide

/-- The one registration, also after an edge that came before the first `TICK` (R23: it leaves no trace). -/
theorem test_regcb_once :
    (after (exec .regcb State.reset)).map (·.registered) = some (some ⟨[], []⟩) ∧
    (after (exec .regcb (edge true State.reset))).map (·.registered) = some (some ⟨[], []⟩) := by decide

theorem test_regcb_late : (after (exec .regcb (tickIdle State.reset))).isNone = true := by decide

/-! ## Reset, NOP, and the step -/

/-- `RESET` from the middle of a frame. -/
theorem test_reset : (after (exec .reset (stateAt .reading 30 5 false 9))).map
    (fun t => (timer t, Memory.image t.wf, t.timingOut, t.trace)) =
      some ((.idle, 8000, 0), 0, true, []) := by decide

theorem test_nop : (after (exec .nop (stateAt .reading 5 3 false 9))).map view =
    some ⟨.reading, true, 5, 3, false, false, 9⟩ := by decide

/-- A placed word is served by the very next step. -/
theorem test_step_tick : (after (step (State.reset.withFetchWord 8 0x10))).map
    (fun t => (t.phase, t.script)) = some (.reading, []) := by decide

/-- Every canonical word runs as the first operation after reset. -/
theorem test_step_first : ∀ w ∈ [0x20, 0x40, 0x10, 0x08, 0x0C, 0x02, 0x01, 0x80, 0x00],
    (after (step (State.reset.withFetchWord 8 w))).isSome = true := by decide

/-- In phase Reading the same word closes the window (R81). -/
theorem test_step_tick_reading : (after (step ((stateAt .reading 0 0 false 0).withFetchWord 8 0x10))).map
    (·.phase) = some .idle := by decide

/-- Two orders of a `TICK` and an `EDGE` due together (R156). -/
theorem test_serialOrder : serialOrder [.tick, .edge true] 0 = [.tick, .edge true] ∧
    serialOrder [.tick, .edge true] 1 = [.edge true, .tick] := by decide

/-- An observer that reacts with `READ` gets the frame just published (R134). -/
def reacting : State :=
  { stateAt .reading 48 0x4E0815E2584A true 0x4E0815E2584A with
    registered := some ⟨[.read], []⟩, reactions := [.read], script := [0x10] }

theorem test_observer_read : (after (step reacting)).map (fun t => (t.trace, t.phase)) =
    some ([.returned (.sample 0x4E0815E2584A)], .reading) := by decide

/-! ## Witnesses: each statement's hypotheses are met -/

theorem reset_ready (script : List Byte) : ready { State.reset with script := script } :=
  ⟨rfl, rfl, rfl⟩

theorem witness_step_word : ∃ s : State, ready s ∧ s.script = [0x08] ∧ strobes 0x08 = [.edge false] :=
  ⟨{ State.reset with script := [0x08] }, reset_ready _, rfl, by decide⟩

theorem witness_step_nop : ∃ s : State, ready s ∧ s.script = [0x04, 0x01] ∧ strobes 0x04 = [] :=
  ⟨{ State.reset with script := [0x04, 0x01] }, reset_ready _, rfl, by decide⟩

theorem witness_step_end : ready State.reset ∧ State.reset.script = [] := ⟨reset_ready [], rfl⟩

/-- For both statements about a word with several events: the first of them, and all of them. -/
theorem witness_simultaneous : ∃ s : State, ready s ∧ s.script = [0x1C] ∧ strobes 0x1C ≠ [] :=
  ⟨{ State.reset with script := [0x1C] }, reset_ready _, rfl, by decide⟩

theorem witness_order : [Event.edge true, .tick].Perm [.tick, .edge true] := by decide

theorem witness_due : ∃ s : State, paramsInRange s.params = true ∧ s.reactions = [] ∧ s.due = [.tick] :=
  ⟨{ State.reset with due := [.tick] }, by decide, rfl, rfl⟩

theorem witness_observer (e : Event) :
    ∃ s : State, paramsInRange s.params = true ∧ s.reactions = [e] :=
  ⟨{ State.reset with reactions := [e] }, rfl, rfl⟩

theorem witness_reset_word : ∃ s : State, ready s ∧ s.script = [0xFF] ∧ (0xFF : Byte).getLsbD 5 = true :=
  ⟨{ State.reset with script := [0xFF] }, reset_ready _, rfl, by decide⟩

theorem witness_zero_parameter : ∃ s s' : State, s.params.tIdle = 0 ∧ s'.params.tRead = 0 :=
  ⟨{ State.reset with params := ⟨0, 1⟩ }, { State.reset with params := ⟨1, 0⟩ }, rfl, rfl⟩

theorem witness_reset_answers : paramsInRange State.reset.params = true ∧ (after (exec .reset State.reset)).isSome :=
  ⟨by decide, rfl⟩

/-- The clauses of `CntCountsOrTicks` and `TickIsDispatchedOnThePhase` at their border. -/
theorem witness_timer_border : ∃ s s' : State,
    s.timerCnt.toNat + 1 + 1 = s.timerTop.toNat ∧ s.phase = .idle ∧
    s'.timerCnt.toNat + 1 = s'.timerTop.toNat ∧ s'.phase = .reading :=
  ⟨{ stateAt .idle 0 0 false 0 with timerCnt := 7998 },
   { stateAt .reading 0 0 false 0 with timerCnt := 1999 }, by decide⟩

theorem witness_phase_start : ∃ s : State, s.timerCnt = 0 ∧ 0 < s.timerTop.toNat ∧ 7999 < s.timerTop.toNat :=
  ⟨stateAt .idle 0 0 false 0, by decide⟩

theorem beyond_of_small {v : Frame} {k : Nat} (h : ∀ i, i < 48 → k ≤ i → v.getLsbD i = false) (i : Nat)
    (hk : k ≤ i) : v.getLsbD i = false := by
  by_cases hi : i < 48
  · exact h i hi hk
  · exact BitVec.getLsbD_of_ge _ _ (by omega)

/-- An Idle state that meets the invariants, with a valid sample. -/
theorem witness_inv_idle : (stateAt .idle 48 0x000000040001 true 0x000000040001).Inv where
  params := by decide
  memory := by decide
  indexBound := by decide
  completeIff := by decide
  armedIff := by decide
  timerTop := by decide
  timerCnt := by decide
  timingHigh := by decide
  beyondIndex := beyond_of_small (by decide)
  validSample := by decide

/-- A Reading state that meets the invariants, one edge short of a frame. -/
theorem witness_inv_reading : (stateAt .reading 47 0x000000040001 false 7).Inv where
  params := by decide
  memory := by decide
  indexBound := by decide
  completeIff := by decide
  armedIff := by decide
  timerTop := by decide
  timerCnt := by decide
  timingHigh := by decide
  beyondIndex := beyond_of_small (by decide)
  validSample := by decide

theorem witness_inv_idle_start : ∃ s : State, s.Inv ∧ s.phase = .idle ∧ s.timerCnt = 0 :=
  ⟨_, witness_inv_idle, rfl, rfl⟩

/-- The three clauses of `EdgeSamplesOneBit`, at 46, 47 and 48. -/
theorem witness_edge_borders : ∃ s s' s'' : State,
    (s.edgeArmed = true ∧ s.bitIndex.toNat = 46) ∧ (s'.edgeArmed = true ∧ s'.bitIndex.toNat = 47) ∧
    (s''.edgeArmed = true ∧ s''.bitIndex.toNat = 48) ∧ State.reset.edgeArmed = false :=
  ⟨stateAt .reading 46 0 false 0, stateAt .reading 47 0 false 0, stateAt .reading 48 0 true 0, by decide⟩

/-- An Idle state whose next `CNT` is the request. -/
def expiring : State := { stateAt .idle 0 0 false 7 with timerCnt := 7999 }

/-- The same with `T_READ` = 2 and so a window that one `CNT` fits into. -/
def expiringShort : State := { expiring with params := ⟨8000, 2⟩ }

theorem witness_opens : opensWindow expiring .cnt ∧ opensWindow expiringShort .cnt ∧
    opensWindow State.reset .tickIdle := ⟨.inr (by decide), .inr (by decide), .inl rfl⟩

/-- A frame with a `READ`, a `VALIDQ`, a `CNT`, a `NOP` and two extra edges among its edges; the `CNT` is the
last that fits. -/
theorem witness_full_frame : ∃ ops : List Instr, opensWindow expiringShort .cnt ∧
    ops.all inWindow = true ∧ ops.count .cnt = 1 ∧ countsFit expiringShort ops ∧
    (edgeBits ops).take 48 = streamOf 0xA6AAAAD54B21 :=
  ⟨.read :: (streamOf 0xA6AAAAD54B21).map edgeOp ++ [.validq, .cnt, .nop, .edge1, .edge1],
    .inr (by decide), by decide, by decide, .inr (by decide), by decide⟩

/-- A timed window of 47 edges, closed by its second and last `CNT`. -/
theorem witness_truncated : ∃ ops : List Instr, opensWindow expiringShort .cnt ∧
    ops.all inWindow = true ∧ countsFit expiringShort ops ∧ closesWindow expiringShort ops .cnt ∧
    (edgeBits ops).length = 47 :=
  ⟨.cnt :: List.replicate 47 .edge1 ++ [.read], .inr (by decide), by decide, .inr (by decide),
    .inr (by decide), by decide⟩

/-- Words with the reset bit clear: none, one and several strobes, with and without the data bit. -/
theorem witness_words : ∀ w ∈ [(0x04 : Byte), 0x14, 0x44, 0x06, 0xDF], w.getLsbD 5 = false := by decide

theorem witness_tick_and_edge_word : strobes 0x18 = [.tick, .edge ((0x18 : Byte).getLsbD 2)] := by decide

theorem witness_pack_borders : (47 : BitVec 6).toNat < 48 ∧ 48 ≤ (48 : BitVec 6).toNat ∧
    Memory.wf State.reset.wf = true := by decide

theorem witness_observers : (∃ s : State, s.registered = some ⟨[.read], [.validq]⟩) ∧
    State.reset.registered = none :=
  ⟨⟨{ State.reset with registered := some ⟨[.read], [.validq]⟩ }, rfl⟩, rfl⟩

theorem witness_registration : (State.reset.registered = none ∧ State.reset.configOpen = true) ∧
    (∃ s : State, s.registered ≠ none) ∧ (∃ s : State, s.registered = none ∧ s.configOpen = false) :=
  ⟨by decide, ⟨{ State.reset with registered := some ⟨[], []⟩ }, by decide⟩,
   ⟨{ State.reset with configOpen := false }, by decide⟩⟩

/-- The last edge of a frame, served by a step: the hypotheses of the statements about a step that changes
the published sample, raises the validity and keeps the invariants. -/
theorem witness_step_completes : ∃ s t : State, s.Inv ∧ step s = .next t ∧ t.pub ≠ s.pub ∧
    s.sampleValid = false ∧ t.sampleValid = true :=
  ⟨(stateAt .reading 47 0x000000040001 false 7).withFetchWord 8 0x08, _,
    ⟨by decide, by decide, by decide, by decide, by decide, by decide, by decide, by decide,
      beyond_of_small (by decide), by decide⟩, rfl, by decide⟩

/-- A `RESET` that changes the published sample, whatever `PUB_RESET` is. -/
theorem witness_step_resets : ∃ s t : State, s.Inv ∧ step s = .next t ∧ t.pub ≠ s.pub := by
  refine ⟨(stateAt .idle 0 0 false (~~~Config.pubReset)).withFetchWord 8 0x20, _,
    ⟨by decide, by decide, by decide, by decide, by decide, by decide, by decide, by decide,
      beyond_of_small (by decide), by decide⟩, rfl, ?_⟩
  intro h
  have := congrArg (fun v : Frame => v.getLsbD 0) h
  simp [resetBlock_eq, stateAt, State.withFetchWord, placeWord] at this

/-- The request that ends a valid sample and clears a bit of the buffer. -/
theorem witness_step_request : ∃ s t : State, step s = .next t ∧ s.sampleValid = true ∧
    t.sampleValid = false ∧ (Memory.image s.wf).getLsbD 0 = true ∧ (Memory.image t.wf).getLsbD 0 = false :=
  ⟨(stateAt .idle 48 0x000000040001 true 0x000000040001).withFetchWord 8 0x10, _, rfl, by decide⟩

theorem witness_contexts : ∃ t u v : State, exec .cnt State.reset = .next t ∧
    contextOf .cnt = some .timer ∧ exec .edge1 (stateAt .reading 47 0 false 0) = .next u ∧
    contextOf .edge1 = some .edge ∧ exec .regcb State.reset = .next v ∧
    contextOf .regcb = some .consumer := ⟨_, _, _, rfl, rfl, rfl, rfl, rfl, rfl⟩

/-- The clauses of `ContextsWriteOnlyWhatTheyOwn` about the working frame: opened and not, by `TICK` and by
`CNT`; an edge stored first and last, and one ignored at 48; `PACK` at the last index; `PUBLISH`. -/
theorem witness_context_memory :
    opensWindow State.reset .tickIdle ∧ opensWindow expiring .cnt ∧ ¬ opensWindow State.reset .cnt ∧
    (after (exec .cnt State.reset)).isSome ∧ (after (exec .frameReset State.reset)).isSome ∧
    (after (exec (edgeOp true) (stateAt .reading 0 0 false 0))).isSome ∧
    (after (exec (edgeOp true) (stateAt .reading 47 0 false 0))).isSome ∧
    (after (exec (edgeOp true) (stateAt .reading 48 0 true 0))).isSome ∧
    (after (exec (.pack 47 true) State.reset)).isSome ∧ (after (exec .publish State.reset)).isSome :=
  ⟨.inl rfl, .inr (by decide), by rintro (h | h) <;> revert h <;> decide,
    rfl, rfl, rfl, rfl, rfl, rfl, rfl⟩

theorem witness_silent : State.reset.phase = .idle := rfl

/-- Two states that differ in all the consumer must not learn. -/
theorem witness_consumer : ∃ s s' t : State, contextOf .read = some .consumer ∧ s.pub = s'.pub ∧
    s.sampleValid = s'.sampleValid ∧ s.registered = s'.registered ∧ s.configOpen = s'.configOpen ∧
    s.wf ≠ s'.wf ∧ s.bitIndex ≠ s'.bitIndex ∧ exec .read s = .next t :=
  ⟨stateAt .reading 30 0x00003FFFFFFF false 7, stateAt .idle 0 0 false 7, _, by decide, rfl, rfl, rfl, rfl,
    by decide, by decide, rfl⟩

end Sys2Proof.Tests
end

section
/-!
PROOF. The Edge Sampler (41_edge_sampler.md, R100): what one `EDGE` does in each of its three branches.
-/
namespace Sys2Proof.Machine

/-- The guard of R100 steps 1 and 2 (conflict C1: the bound is `bit_index >= 48`), read as a refusal. -/
theorem accepts_eq_false_iff (s : State) :
    accepts s = false ↔ s.edgeArmed = false ∨ Config.nBits ≤ s.bitIndex.toNat := by
  rw [← Bool.not_eq_true, accepts_iff, Decidable.not_and_iff_or_not, Bool.not_eq_true, Nat.not_lt]

theorem exec_edgeOp_of_ignored {s : State} (d : Bool)
    (h : s.edgeArmed = false ∨ Config.nBits ≤ s.bitIndex.toNat) : exec (edgeOp d) s = .next s := by
  rw [exec_edgeOp, edge_of_ignored d ((accepts_eq_false_iff s).2 h)]

theorem exec_edgeOp_of_middle {s : State} (d : Bool) (ha : s.edgeArmed = true)
    (h : s.bitIndex.toNat + 1 < Config.nBits) :
    ∃ t, exec (edgeOp d) s = .next t ∧ storesBit s.wf t.wf s.bitIndex.toNat d ∧
      t.bitIndex.toNat = s.bitIndex.toNat + 1 ∧
      t = { s with wf := t.wf, bitIndex := t.bitIndex } := by
  have hlt : s.bitIndex.toNat < Config.nBits := by omega
  rw [exec_edgeOp, edge_of_middle d ha h]
  exact ⟨_, rfl, packMemory_storesBit _ _ d hlt, toNat_succ_index hlt, rfl⟩

theorem exec_edgeOp_of_last {s : State} (d : Bool) (ha : s.edgeArmed = true)
    (h : s.bitIndex.toNat + 1 = Config.nBits) :
    ∃ t, exec (edgeOp d) s = .next t ∧ storesBit s.wf t.wf s.bitIndex.toNat d ∧
      t.bitIndex.toNat = s.bitIndex.toNat + 1 ∧
      t = { s with
            wf := t.wf, bitIndex := t.bitIndex, complete := true, pub := Memory.image t.wf,
            sampleValid := true, trace := s.trace ++ [.notifyValid],
            reactions := t.reactions } := by
  have hlt : s.bitIndex.toNat < Config.nBits := by omega
  rw [exec_edgeOp, edge_of_last d ha h]
  exact ⟨_, rfl, packMemory_storesBit _ _ d hlt, toNat_succ_index hlt, rfl⟩

/-- Settles O20: one lemma per branch of R100 (ignored, stored before the 48th bit, stored as the 48th). -/
theorem edgeSamplesOneBit : Obligations.EdgeSamplesOneBit := by
  refine ⟨by decide, by decide, fun s d => ⟨exec_edgeOp_of_ignored d, fun ha hlt => ?_, fun ha h47 => ?_⟩⟩
  · exact exec_edgeOp_of_middle d ha (Nat.add_lt_add_right hlt 1)
  · have hlast := exec_edgeOp_of_last d ha (congrArg (· + 1) h47)
    rwa [h47] at hlast

end Sys2Proof.Machine
end

section
/-!
PROOF. `PACK` (42_frame_codec.md section 2, R111): what it adds to the image and to the addressed byte.
-/
namespace Sys2Proof.Machine

/-- The word `v << i` of R111, bit by bit. -/
theorem getLsbD_shifted_bit {n i : Nat} (hi : i < n) (v : Bool) (j : Nat) :
    (BitVec.ofNat n v.toNat <<< i).getLsbD j = (decide (j = i) && v) := by
  cases v
  case false => simp
  case true =>
    rw [Bool.toNat_true, BitVec.getLsbD_shiftLeft, BitVec.getLsbD_one, Bool.and_true, Bool.eq_iff_iff]
    simp only [Bool.and_eq_true, Bool.not_eq_true', decide_eq_true_eq, decide_eq_false_iff_not]
    omega

/-- R111: `PACK(i, v)(W) = W OR (v << i)`. -/
theorem image_packMemory (m : Memory) {i : Nat} (v : Bool) (hi : i < Config.nBits) :
    Memory.image (packMemory i v m) = Memory.image m ||| (BitVec.ofNat 48 v.toNat <<< i) :=
  BitVec.eq_of_getLsbD_eq fun j _ => by
    rw [packMemory_getLsbD m i j v hi, BitVec.getLsbD_or, getLsbD_shifted_bit (n := 48) hi]

theorem image_packMemory_comm (m : Memory) {i j : Nat} (v w : Bool) (hi : i < Config.nBits)
    (hj : j < Config.nBits) :
    Memory.image (packMemory j w (packMemory i v m)) = Memory.image (packMemory i v (packMemory j w m)) := by
  simp only [image_packMemory _ _ hi, image_packMemory _ _ hj]
  rw [BitVec.or_assoc, BitVec.or_assoc, BitVec.or_comm (BitVec.ofNat 48 v.toNat <<< i)]

/-- The addressed byte gains the stored bit (R40, R111). -/
theorem packMemory_byte_self (m : Memory) (i : Nat) (v : Bool) :
    Memory.byte (packMemory i v m) (byteOf i) =
      Memory.byte m (byteOf i) ||| (BitVec.ofNat 8 v.toNat <<< bitOf i) := by
  cases v
  case false => simp [packMemory]
  case true => exact byte_put_self m _ _

@[simp] theorem pack_false (i : Nat) (s : State) : pack i false s = s := rfl

theorem runAll_pack_pack {i j : BitVec 6} (v w : Bool) (s : State) (hi : inMap i.toNat = true)
    (hj : inMap j.toNat = true) :
    runAll [.pack i v, .pack j w] s = .next (pack j.toNat w (pack i.toNat v s)) := by
  simp only [runAll, exec_pack_of_inMap _ _ hi, exec_pack_of_inMap _ _ hj]

/-- Settles O28: one lemma each for the image, the addressed byte, the other bytes and two `PACK`s. -/
theorem packSetsOneBit : Obligations.PackSetsOneBit := by
  intro s i v hi
  have hin : inMap i.toNat = true := decide_eq_true hi
  refine ⟨pack i.toNat v s, exec_pack_of_inMap v s hin, rfl, packMemory_storesBit _ _ v hi,
    image_packMemory _ v hi, packMemory_byte_self _ _ v, ?_, fun j w hj => ?_⟩
  · rintro rfl
    exact pack_false _ s
  · have hjn : inMap j.toNat = true := decide_eq_true hj
    exact ⟨_, _, runAll_pack_pack v w s hin hjn, runAll_pack_pack w v s hjn hin,
      image_packMemory_comm s.wf v w hi hj⟩

end Sys2Proof.Machine
end

section
/-!
PROOF. The Snapshot Synchronizer (43_snapshot_synchronizer.md): its writer `PUBLISH` and its two readers
`READ` and `VALIDQ`, each named by its shared operation and then by the elements that operation writes.
-/
namespace Sys2Proof.Machine

theorem exec_publish (s : State) : exec .publish s = .next (publish s) := rfl

theorem exec_read (s : State) : exec .read s = .next (emit (.returned (.sample s.pub)) s) := rfl

theorem exec_validq (s : State) : exec .validq s = .next (emit (.returned (.validity s.sampleValid)) s) := rfl

/-- R130: the two elements `PUBLISH` writes; all the others are as before. -/
theorem publish_eq (s : State) : publish s = { s with pub := Memory.image s.wf, sampleValid := true } := rfl

/-- Settles O35: the next state is `publish s`, whose `pub` is the image of the buffer. -/
theorem publishCopiesTheWorkingFrame : Obligations.PublishCopiesTheWorkingFrame := fun s =>
  ⟨publish s, exec_publish s, congrArg decodeFrame (publish_pub s), publish_eq s⟩

/-- Settles O36: the word by evaluation; the operation is an emission of `pub`, which only adds to the trace. -/
theorem readReturnsThePublishedSample : Obligations.ReadReturnsThePublishedSample :=
  ⟨by decide, exec_read⟩

/-- Settles O37: the word by evaluation; the operation is an emission of the flag, which only adds to the
trace. -/
theorem validqReturnsTheValidity : Obligations.ValidqReturnsTheValidity :=
  ⟨by decide, exec_validq⟩

end Sys2Proof.Machine
end

section
/-!
PROOF. Exceptions (60_exceptions.md, R154): the polling cycles of a device that never clocks.
-/
namespace Sys2Proof.Machine

theorem exec_tickIdle (s : State) : exec .tickIdle s = .next (tickIdle s) := rfl

theorem exec_tickReading (s : State) : exec .tickReading s = .next (tickReading s) := rfl

@[simp] theorem tickIdle_pub (s : State) : (tickIdle s).pub = s.pub := by rw [tickIdle_eq]

@[simp] theorem tickIdle_sampleValid (s : State) : (tickIdle s).sampleValid = false := by rw [tickIdle_eq]

/-- One polling cycle in which no edge arrives: the request of R82, then the close of R83. -/
def silentCycle (s : State) : State := tickReading (tickIdle s)

/-- R154: what a silent cycle emits. -/
def silentOutputs : List Output := [.trigFall, .trigRise, .notifyInvalid]

@[simp] theorem silentCycle_phase (s : State) : (silentCycle s).phase = .idle := rfl

@[simp] theorem silentCycle_pub (s : State) : (silentCycle s).pub = s.pub := tickIdle_pub s

@[simp] theorem silentCycle_sampleValid (s : State) : (silentCycle s).sampleValid = false :=
  tickIdle_sampleValid s

@[simp] theorem silentCycle_trace (s : State) : (silentCycle s).trace = s.trace ++ silentOutputs := by
  rw [silentCycle, tickReading_eq, tickIdle_eq, silentOutputs]

/-- The two arms `n` times over are `n` silent cycles. -/
theorem runAll_silentCycles (n : Nat) (s : State) :
    runAll (List.replicate n [Instr.tickIdle, Instr.tickReading]).flatten s = .next (silentCycle^[n] s) := by
  induction n generalizing s with
  | zero => rfl
  | succ n ih =>
    simp only [List.replicate_succ, List.flatten_cons, runAll_append, runAll, exec_tickIdle, exec_tickReading,
      Function.iterate_succ_apply]
    exact ih (silentCycle s)

theorem silentCycles_phase {s : State} (n : Nat) (h : s.phase = .idle) :
    (silentCycle^[n] s).phase = .idle := by
  cases n with
  | zero => exact h
  | succ n => rw [Function.iterate_succ_apply', silentCycle_phase]

theorem silentCycles_pub (n : Nat) (s : State) : (silentCycle^[n] s).pub = s.pub := by
  induction n with
  | zero => rfl
  | succ n ih => rw [Function.iterate_succ_apply', silentCycle_pub, ih]

theorem silentCycles_sampleValid {n : Nat} {s : State} (h : s.sampleValid = false ∨ 0 < n) :
    (silentCycle^[n] s).sampleValid = false := by
  cases n with
  | zero => exact h.resolve_right (Nat.lt_irrefl 0)
  | succ n => rw [Function.iterate_succ_apply', silentCycle_sampleValid]

/-- How often an output event was emitted after `n` silent cycles. -/
theorem silentCycles_count (n : Nat) (s : State) (o : Output) :
    (silentCycle^[n] s).trace.count o = s.trace.count o + n * silentOutputs.count o := by
  induction n with
  | zero => simp
  | succ n ih =>
    rw [Function.iterate_succ_apply', silentCycle_trace, List.count_append, ih, Nat.succ_mul, Nat.add_assoc]

/-- An event that a silent cycle emits once. -/
theorem silentCycles_count_of_once (n : Nat) (s : State) {o : Output} (h : silentOutputs.count o = 1) :
    (silentCycle^[n] s).trace.count o = s.trace.count o + n := by
  rw [silentCycles_count, h, Nat.mul_one]

/-- An event that a silent cycle does not emit. -/
theorem silentCycles_count_of_never (n : Nat) (s : State) {o : Output} (h : silentOutputs.count o = 0) :
    (silentCycle^[n] s).trace.count o = s.trace.count o := by
  rw [silentCycles_count, h, Nat.mul_zero, Nat.add_zero]

/-- Settles O19: the run is `n` silent cycles, each of which emits the three events of R154 once, leaves the
sample invalid and keeps `pub`. -/
theorem silentDeviceGetsInvalidatesOnly : Obligations.SilentDeviceGetsInvalidatesOnly := fun s n hidle =>
  ⟨silentCycle^[n] s, runAll_silentCycles n s, silentCycles_phase n hidle, silentCycles_pub n s,
    fun h => silentCycles_sampleValid (.inl h), fun h => silentCycles_sampleValid (.inr h),
    silentCycles_count_of_once n s (by decide), silentCycles_count_of_once n s (by decide),
    silentCycles_count_of_once n s (by decide), silentCycles_count_of_never n s (by decide)⟩

end Sys2Proof.Machine
end

section
/-!
PROOF. The Frame Codec (42_frame_codec.md): the fields as slices and as a weighted sum, the image of the
buffer in bytes, and `PACK`s in either order.
-/
namespace Sys2Proof

/-- R114: the weighted sum of the fields, as a number. -/
def fieldSum (f : JoystickSample) : Nat :=
  f.fire.toNat + 2 * f.top.toNat + 4 * f.topUp.toNat + 8 * f.topDown.toNat
    + 16 * f.btnA.toNat + 32 * f.btnB.toNat + 64 * f.btnC.toNat + 128 * f.btnD.toNat
    + 2 ^ 8 * f.shift.toNat + 2 ^ 9 * f.x.toNat + 2 ^ 19 * f.y.toNat + 2 ^ 29 * f.m.toNat
    + 2 ^ 36 * f.r.toNat + 2 ^ 42 * f.head.toNat
    + 2 ^ 46 * f.reserved.toNat + 2 ^ 47 * f.parity.toNat

theorem encodeFrame_eq (f : JoystickSample) : encodeFrame f = BitVec.ofNat 48 (fieldSum f) := rfl

theorem toNat_getLsbD {n : Nat} (w : BitVec n) (i : Nat) :
    (w.getLsbD i).toNat = w.toNat / 2 ^ i % 2 := by
  rw [← BitVec.testBit_toNat, Nat.toNat_testBit]

theorem getLsbD_eq_iff {n : Nat} (w : BitVec n) (i : Nat) (b : Bool) :
    w.getLsbD i = b ↔ w.toNat / 2 ^ i % 2 = b.toNat := by
  rw [← toNat_getLsbD]
  cases w.getLsbD i <;> cases b <;> decide

theorem toNat_slice {n : Nat} (w : BitVec n) (i k : Nat) :
    (w.extractLsb' i k).toNat = w.toNat / 2 ^ i % 2 ^ k := by
  rw [BitVec.extractLsb'_toNat, Nat.shiftRight_eq_div_pow]

theorem fieldSum_decodeFrame (w : Frame) : fieldSum (decodeFrame w) = w.toNat := by
  simp only [fieldSum, decodeFrame, toNat_getLsbD, toNat_slice]
  have := w.isLt
  omega

/-- Each field fits its width (R110). -/
theorem field_bounds (f : JoystickSample) :
    (f.fire.toNat < 2 ∧ f.top.toNat < 2 ∧ f.topUp.toNat < 2 ∧ f.topDown.toNat < 2) ∧
    (f.btnA.toNat < 2 ∧ f.btnB.toNat < 2 ∧ f.btnC.toNat < 2 ∧ f.btnD.toNat < 2) ∧
    f.shift.toNat < 2 ∧ f.x.toNat < 2 ^ 10 ∧ f.y.toNat < 2 ^ 10 ∧ f.m.toNat < 2 ^ 7 ∧
    f.r.toNat < 2 ^ 6 ∧ f.head.toNat < 2 ^ 4 ∧ f.reserved.toNat < 2 ∧ f.parity.toNat < 2 := by
  simp only [Bool.toNat_lt, BitVec.isLt, and_self]

theorem fieldSum_lt (f : JoystickSample) : fieldSum f < 2 ^ 48 := by
  have := field_bounds f
  unfold fieldSum
  omega

theorem toNat_encodeFrame (f : JoystickSample) : (encodeFrame f).toNat = fieldSum f := by
  rw [encodeFrame_eq, BitVec.toNat_ofNat, Nat.mod_eq_of_lt (fieldSum_lt f)]

theorem encodeFrame_decodeFrame (w : Frame) : encodeFrame (decodeFrame w) = w :=
  BitVec.eq_of_toNat_eq (by rw [toNat_encodeFrame, fieldSum_decodeFrame])

theorem decodeFrame_encodeFrame (f : JoystickSample) : decodeFrame (encodeFrame f) = f := by
  have := field_bounds f
  cases f
  simp only [decodeFrame, JoystickSample.mk.injEq, getLsbD_eq_iff, ← BitVec.toNat_inj, toNat_slice,
    toNat_encodeFrame, fieldSum] at this ⊢
  omega

/-- Settles O33: the sum of the fields is below `2^48`, and the slices are its digits, so that each of the two
functions undoes the other. -/
theorem encodeAndDecodeAreInverse : Obligations.EncodeAndDecodeAreInverse :=
  ⟨toNat_encodeFrame, decodeFrame_encodeFrame, encodeFrame_decodeFrame, by decide⟩

/-- Settles O31: the record is `decodeFrame w`, whose multi-bit fields are slices. -/
theorem decodeReturnsTheSlices : Obligations.DecodeReturnsTheSlices := by
  intro s w
  refine ⟨decodeFrame w, rfl, rfl, rfl, rfl, rfl, rfl, rfl, rfl, rfl, rfl, rfl, ?_, ?_, ?_, ?_, ?_, rfl, rfl⟩ <;>
    intro j hj <;> simp [decodeFrame, hj]

/-- Settles O32: an emission of the image. -/
theorem encodeReturnsTheImage : Obligations.EncodeReturnsTheImage := fun _ _ => rfl

theorem toNat_append_eq_add {m n : Nat} (x : BitVec m) (y : BitVec n) :
    (x ++ y).toNat = x.toNat * 2 ^ n + y.toNat := by
  rw [BitVec.toNat_append, ← Nat.shiftLeft_add_eq_or_of_lt y.isLt, Nat.shiftLeft_eq]

namespace Machine

@[simp] theorem byte_nil (k : Nat) : Memory.byte [] k = 0 := rfl

theorem toNat_image (m : Memory) : (Memory.image m).toNat =
    (Memory.byte m 0).toNat + 2 ^ 8 * (Memory.byte m 1).toNat + 2 ^ 16 * (Memory.byte m 2).toNat
      + 2 ^ 24 * (Memory.byte m 3).toNat + 2 ^ 32 * (Memory.byte m 4).toNat
      + 2 ^ 40 * (Memory.byte m 5).toNat := by
  simp only [Memory.image, frameOfSix, toNat_append_eq_add]
  omega

/-- Settles O34: the bytes are appended, so the numbers add up; the bits are those of `image_getLsbD`. -/
theorem imageIsLittleEndian : Obligations.ImageIsLittleEndian :=
  fun m => ⟨toNat_image m, image_getLsbD m⟩

/-- Every byte after a `PACK` (R111). -/
theorem packMemory_byte (m : Memory) (i k : Nat) (v : Bool) :
    Memory.byte (packMemory i v m) k =
      Memory.byte m k ||| if k = byteOf i then BitVec.ofNat 8 v.toNat <<< bitOf i else 0 := by
  split
  case isTrue h => rw [h, packMemory_byte_self]
  case isFalse h => rw [packMemory_byte_of_ne m i k v h]; simp

theorem packMemory_comm {m : Memory} {i j : Nat} (v w : Bool) (hm : Memory.wf m = true)
    (hi : i < Config.nBits) (hj : j < Config.nBits) :
    packMemory j w (packMemory i v m) = packMemory i v (packMemory j w m) := by
  refine memory_ext (packMemory_wf j w _ hj (packMemory_wf i v m hi hm))
    (packMemory_wf i v _ hi (packMemory_wf j w m hj hm)) fun k => ?_
  simp only [packMemory_byte, BitVec.or_assoc]
  rw [BitVec.or_comm (if k = byteOf i then _ else _)]

/-- Settles O30: a `PACK` ORs one word into one byte, and canonical buffers with the same bytes are equal. -/
theorem packsLeaveTheSameStateInEitherOrder : Obligations.PacksLeaveTheSameStateInEitherOrder := by
  intro s i j v w hwf hi hj
  rw [runAll_pack_pack v w s (decide_eq_true hi) (decide_eq_true hj),
    runAll_pack_pack w v s (decide_eq_true hj) (decide_eq_true hi)]
  simp only [pack, packMemory_comm v w hwf hi hj]

/-- Settles O29: the index is not in the address map. -/
theorem packOutsideTheMapFaults : Obligations.PackOutsideTheMapFaults := by
  intro s i v hi
  have hout : inMap i.toNat = false := decide_eq_false (Nat.not_lt.mpr hi)
  simp [exec, execPack, hout]

end Machine

end Sys2Proof
end

section
/-!
PROOF. The invariants (10_state.md section 11, R25): `RESET` establishes them and every operation that a step
can run keeps them.
-/
namespace Sys2Proof.Machine

theorem exec_reset (s : State) : exec .reset s = .next (resetBlock s) := rfl

/-- Settles O10: the post-state is that of `resetBlock_eq`. -/
theorem resetPutsEveryElementAtItsResetValue : Obligations.ResetPutsEveryElementAtItsResetValue := by
  refine ⟨fun s => ⟨resetBlock s, exec_reset s, ?_⟩, rfl⟩
  simp [resetBlock_eq]

/-! ## The parameters -/

theorem paramsInRange_iff (p : Params) : paramsInRange p = true ↔ 0 < p.tIdle.toNat ∧ 0 < p.tRead.toNat := by
  simp [paramsInRange, Nat.pos_iff_ne_zero, ← BitVec.toNat_inj]

/-! ## Operations -/

theorem resetBlock_inv {s : State} (h : paramsInRange s.params = true) : (resetBlock s).Inv := by
  rw [resetBlock_eq]
  exact {
    params := h
    memory := rfl
    indexBound := Nat.zero_le _
    completeIff := by simp [Config.nBits]
    armedIff := by simp
    timerTop := rfl
    timerCnt := ((paramsInRange_iff _).1 h).1
    timingHigh := rfl
    beyondIndex := by simp
    validSample := by simp }

/-- Settles O11: `State.reset` is itself a post-state of `RESET`. -/
theorem invariantsHoldAtReset : Obligations.InvariantsHoldAtReset := by
  refine ⟨resetBlock_inv (s := State.reset) (by decide), fun s hp t ht => ?_⟩
  rw [exec_reset] at ht
  cases ht
  exact resetBlock_inv hp

/-- R82 establishes the invariants of the working frame, whatever stood there before. -/
theorem tickIdle_inv {s : State} (h : paramsInRange s.params = true) : (tickIdle s).Inv := by
  rw [tickIdle_eq]
  exact {
    params := h
    memory := rfl
    indexBound := Nat.zero_le _
    completeIff := by simp [Config.nBits]
    armedIff := by simp
    timerTop := rfl
    timerCnt := ((paramsInRange_iff _).1 h).2
    timingHigh := rfl
    beyondIndex := by simp
    validSample := by simp }

section
variable {s : State}

theorem tickReading_keeps_inv (h : s.Inv) : (tickReading s).Inv := by
  rw [tickReading_eq]
  exact { h with
    armedIff := by simp
    timerTop := rfl
    timerCnt := ((paramsInRange_iff _).1 h.params).1 }

theorem tick_keeps_inv (h : s.Inv) : (tick s).Inv := by
  cases hp : s.phase with
  | idle => rw [tick_of_idle hp]; exact tickIdle_inv h.params
  | reading => rw [tick_of_reading hp]; exact tickReading_keeps_inv h

theorem countTick_keeps_inv (h : s.Inv) : (countTick s).Inv := by
  by_cases hrun : s.timerCnt.toNat + 1 < s.timerTop.toNat
  · rw [countTick_of_running hrun]
    have hcnt : (s.timerCnt + 1).toNat < s.timerTop.toNat := by bv_omega
    exact { h with timerCnt := hcnt }
  · rw [countTick_of_expiry (by omega)]
    exact tick_keeps_inv h

/-- While bits are missing, no sample is valid. -/
theorem State.Inv.sampleValid_eq_false (h : s.Inv) (hlt : s.bitIndex.toNat < Config.nBits) : s.sampleValid = false :=
  Bool.eq_false_iff.2 fun hv => hlt.ne (h.validSample hv).1

theorem State.Inv.complete_eq_false (h : s.Inv) (hlt : s.bitIndex.toNat < Config.nBits) : s.complete = false :=
  Bool.eq_false_iff.2 fun hc => hlt.ne (h.completeIff.1 hc)

/-- No bit is beyond the new index when the bit at the old one has been stored. -/
theorem State.Inv.beyondIndex_pack (h : s.Inv) (d : Bool) (hlt : s.bitIndex.toNat < Config.nBits) (i : Nat)
    (hi : (s.bitIndex + 1).toNat ≤ i) :
    (Memory.image (packMemory s.bitIndex.toNat d s.wf)).getLsbD i = false := by
  rw [toNat_succ_index hlt] at hi
  rw [packMemory_getLsbD _ _ _ _ hlt, h.beyondIndex i (by omega), decide_eq_false (by omega)]
  rfl

theorem edge_keeps_inv (h : s.Inv) (d : Bool) : (edge d s).Inv := by
  rcases edge_cases d s with ⟨-, heq⟩ | ⟨-, hlt, heq⟩ | ⟨-, hlast, heq⟩
  · rwa [heq]
  · have hidx : s.bitIndex.toNat < Config.nBits := by omega
    have hsucc := toNat_succ_index hidx
    rw [heq]
    exact { h with
      memory := packMemory_wf _ d _ hidx h.memory
      indexBound := by simp only [hsucc]; omega
      completeIff := by simp only [h.complete_eq_false hidx, hsucc, hlt.ne, Bool.false_eq_true]
      beyondIndex := h.beyondIndex_pack d hidx
      validSample := by simp [h.sampleValid_eq_false hidx] }
  · have hidx : s.bitIndex.toNat < Config.nBits := by omega
    have hsucc : (s.bitIndex + 1).toNat = Config.nBits := (toNat_succ_index hidx).trans hlast
    rw [heq]
    exact { h with
      memory := packMemory_wf _ d _ hidx h.memory
      indexBound := hsucc.le
      completeIff := by simp only [hsucc]
      beyondIndex := h.beyondIndex_pack d hidx
      validSample := fun _ => ⟨hsucc, rfl⟩ }

theorem emit_keeps_inv (h : s.Inv) (e : Output) : (emit e s).Inv := { h with }

/-- The invariants say nothing of the model's own queues. -/
theorem queues_keep_inv (h : s.Inv) (script : List Byte) (due reactions : List Event) (n : Nat) :
    State.Inv { s with script := script, due := due, reactions := reactions, orderCount := n } := { h with }

theorem execSelect_keeps_inv (h : s.Inv) {ph : Phase} {e : Event} {t : State} (ht : exec (select ph e) s = .next t) :
    t.Inv := by
  rcases exec_select_next ht with ⟨-, rfl⟩ | ⟨-, rfl⟩ | ⟨-, -, rfl⟩ | ⟨-, -, rfl⟩ | ⟨d, -, rfl⟩ | ⟨-, rfl⟩ |
    ⟨-, rfl⟩ | ⟨-, -, -, rfl⟩
  · exact resetBlock_inv h.params
  · exact countTick_keeps_inv h
  · exact tickIdle_inv h.params
  · exact tickReading_keeps_inv h
  · exact edge_keeps_inv h d
  · exact emit_keeps_inv h _
  · exact emit_keeps_inv h _
  · exact { h with }

end

/-- Settles O38: the fetch moves only the queues, and what it runs is a `NOP` or the dispatch of an event, each
of which keeps the invariants. -/
theorem everyStepKeepsTheInvariants : Obligations.EveryStepKeepsTheInvariants := by
  intro s t hinv ht
  obtain ⟨i, u, hf, he⟩ := step_next ht
  obtain ⟨hi, hu⟩ := fetch_frame hf
  have huinv : u.Inv := hu ▸ queues_keep_inv hinv _ _ _ _
  rcases hi with rfl | ⟨e, rfl⟩
  · cases he; exact huinv
  · exact execSelect_keeps_inv huinv he

end Sys2Proof.Machine
end

section
/-!
PROOF. The event words (30_encoding.md sections 2, 4 and 5; R61, R64, R65): which events a word carries.
-/
namespace Sys2Proof

/-- R64: the reset bit leaves no other event. -/
theorem strobes_of_reset {w : Byte} (h : w.getLsbD 5 = true) : strobes w = [.reset] := by
  simp [strobes, h]

theorem mem_strobes_iff {w : Byte} (h : w.getLsbD 5 = false) (e : Event) :
    e ∈ strobes w ↔
      (w.getLsbD 7 = true ∧ e = .regcb) ∨ (w.getLsbD 6 = true ∧ e = .cnt) ∨ (w.getLsbD 4 = true ∧ e = .tick) ∨
      (w.getLsbD 3 = true ∧ e = .edge (w.getLsbD 2)) ∨ (w.getLsbD 1 = true ∧ e = .read) ∨
      (w.getLsbD 0 = true ∧ e = .validq) := by
  simp only [strobes, h, Bool.false_eq_true, if_false, List.mem_append, List.mem_ite_nil_right,
    List.mem_singleton, or_assoc]

theorem ite_singleton_sublist {α : Type} (c : Prop) [Decidable c] (a : α) :
    (if c then [a] else []).Sublist [a] := by
  split
  · exact .refl _
  · exact List.nil_sublist _

/-- The events of a word without reset stand in bit order (R64). -/
theorem strobes_sublist {w : Byte} (h : w.getLsbD 5 = false) :
    (strobes w).Sublist [.regcb, .cnt, .tick, .edge (w.getLsbD 2), .read, .validq] := by
  simp only [strobes, h, Bool.false_eq_true, if_false]
  exact (((((ite_singleton_sublist _ _).append (ite_singleton_sublist _ _)).append
    (ite_singleton_sublist _ _)).append (ite_singleton_sublist _ _)).append
    (ite_singleton_sublist _ _)).append (ite_singleton_sublist _ _)

theorem strobes_nodup {w : Byte} (h : w.getLsbD 5 = false) : (strobes w).Nodup :=
  (strobes_sublist h).nodup (by simp)

theorem decodeWord_of_events {w : Byte} (ph : Phase) (h : strobes w ≠ []) :
    decodeWord ph w = (strobes w).map (select ph) := by
  unfold decodeWord
  split
  · next hw => exact absurd hw h
  · rfl

theorem decodeWord_of_none {w : Byte} (ph : Phase) (h : strobes w = []) : decodeWord ph w = [.nop] := by
  simp [decodeWord, h]

/-- Settles O9: the clauses on an event are `mem_strobes_iff` at that event; the table words by evaluation. -/
theorem tableWordsDecodeToTheirOperations : Obligations.TableWordsDecodeToTheirOperations := by
  refine ⟨fun w => strobes_of_reset, fun w h => ⟨strobes_nodup h, ?_⟩,
    fun ph w => ⟨decodeWord_of_events ph, decodeWord_of_none ph⟩, by decide⟩
  simp [mem_strobes_iff h]

/-- A word with `RESET` carries nothing else. -/
theorem strobes_of_reset_mem {w : Byte} (h : Event.reset ∈ strobes w) : strobes w = [.reset] := by
  cases h5 : w.getLsbD 5 with
  | true => exact strobes_of_reset h5
  | false => simp [mem_strobes_iff h5] at h

end Sys2Proof
end

section
/-!
PROOF. The serial orders of simultaneous events (20_memory.md section 6, R49, decision D10).
-/
namespace Sys2Proof.Machine

theorem insertAt_length (e : Event) (before later : List Event) :
    insertAt e (before ++ later) before.length = before ++ e :: later := by
  induction before with
  | nil => cases later <;> rfl
  | cons x xs ih => simp [insertAt, ih]

/-- Every number of the tail's order and every place for the head are the digits of one number. -/
theorem serialOrder_cons (e : Event) (es : List Event) (n : Nat) {k : Nat} (hk : k < es.length + 1) :
    serialOrder (e :: es) (k + n * (es.length + 1)) = insertAt e (serialOrder es n) k := by
  rw [serialOrder, Nat.add_mul_div_right _ _ (Nat.succ_pos _), Nat.div_eq_of_lt hk, Nat.zero_add,
    Nat.add_mul_mod_self_right, Nat.mod_eq_of_lt hk]

theorem exists_serialOrder : ∀ events order : List Event, order.Perm events → ∃ n, serialOrder events n = order
  | [], _, h => ⟨0, h.eq_nil.symm⟩
  | e :: es, order, h => by
    obtain ⟨before, later, rfl⟩ := List.append_of_mem (h.mem_iff.2 List.mem_cons_self)
    have hrest : (before ++ later).Perm es := (List.perm_middle.symm.trans h).cons_inv
    obtain ⟨n, hn⟩ := exists_serialOrder es _ hrest
    have hplace : before.length < es.length + 1 := by simp [← hrest.length_eq]
    exact ⟨before.length + n * (es.length + 1), by rw [serialOrder_cons e es n hplace, hn, insertAt_length]⟩

/-- Settles O3: by induction on the events, the head being inserted where it stands in the order. -/
theorem everyOrderIsAServingOrder : Obligations.EveryOrderIsAServingOrder := exists_serialOrder

end Sys2Proof.Machine
end

section
/-!
PROOF. The total order of operations (20_memory.md section 6, 30_encoding.md section 4): what one step serves,
one rule for each place an operation can come from.
-/
namespace Sys2Proof.Machine

theorem exec_nop (s : State) : exec .nop s = .next s := rfl

/-! ## What a step serves -/

/-- A request of an invoked observer (R137). -/
theorem step_of_reaction {s : State} {e : Event} {rest : List Event} (hp : paramsInRange s.params = true)
    (hr : s.reactions = e :: rest) :
    step s = if observerMay e then exec (select s.phase e) { s with reactions := rest }
      else .refused .observerReentry := by
  cases he : observerMay e <;> simp [step, fetch, hp, hr, he]

/-- What is left of a word (R64). -/
theorem step_of_due {s : State} {e : Event} {rest : List Event} (hp : paramsInRange s.params = true)
    (hr : s.reactions = []) (hd : s.due = e :: rest) :
    step s = exec (select s.phase e) { s with due := rest } := by
  simp [step, fetch, hp, hr, hd, runFirst]

/-- The next word, from the serial order that its events are given (R49). -/
theorem step_of_order {s : State} {w : Byte} {rest : List Byte} {e : Event} {es : List Event} (hs : ready s)
    (hw : s.script = w :: rest) (ho : serialOrder (strobes w) (Config.freeOrder s.orderCount) = e :: es) :
    step s =
      exec (select s.phase e) { s with script := rest, orderCount := s.orderCount + 1, due := es } := by
  obtain ⟨hp, hr, hd⟩ := hs
  simp [step, fetch, hp, hr, hd, fetchWord, hw, decodeBytes, ho, runFirst]

/-- A word that carries one event leaves nothing due. -/
theorem step_of_single {s : State} {w : Byte} {rest : List Byte} {e : Event} (hs : ready s)
    (hw : s.script = w :: rest) (he : strobes w = [e]) :
    step s =
      exec (select s.phase e) { s with script := rest, orderCount := s.orderCount + 1, due := [] } :=
  step_of_order hs hw (by rw [he]; rfl)

theorem step_of_empty_word {s : State} {w : Byte} {rest : List Byte} (hs : ready s)
    (hw : s.script = w :: rest) (he : strobes w = []) :
    step s = exec .nop { s with script := rest, orderCount := s.orderCount + 1 } := by
  obtain ⟨hp, hr, hd⟩ := hs
  simp [step, fetch, hp, hr, hd, fetchWord, hw, decodeBytes, he, serialOrder, runFirst]

theorem step_of_script_end {s : State} (hs : ready s) (hw : s.script = []) : step s = exec .nop s := by
  obtain ⟨hp, hr, hd⟩ := hs
  simp [step, fetch, hp, hr, hd, fetchWord, hw, decodeBytes]

theorem step_of_params_out_of_range {s : State} (hp : paramsInRange s.params = false) :
    step s = .refused .timerParameterOutOfRange := by
  simp [step, fetch, hp]

/-! ## The obligations -/

/-- Settles O1: one rule of the step for each of the three scripts. -/
theorem stepRunsTheDecodedOperation : Obligations.StepRunsTheDecodedOperation :=
  ⟨fun _ _ _ _ => step_of_single, fun _ _ _ => step_of_empty_word, fun _ => step_of_script_end⟩

/-- Settles O2: the serial order is a permutation of a word that carries events, so it has a first one. -/
theorem firstOfTheSimultaneousEventsRunsAndTheRestAreDue :
    Obligations.FirstOfTheSimultaneousEventsRunsAndTheRestAreDue := by
  intro s w rest hs hw hne
  have hperm := serialOrder_perm (strobes w) (Config.freeOrder s.orderCount)
  cases ho : serialOrder (strobes w) (Config.freeOrder s.orderCount) with
  | nil => rw [ho] at hperm; exact absurd hperm.nil_eq.symm hne
  | cons e es => rw [ho] at hperm; exact ⟨e, es, hperm, step_of_order hs hw ho⟩

/-- Settles O4: the rule of the step for what is left of a word. -/
theorem dueEventsPrecedeTheNextWord : Obligations.DueEventsPrecedeTheNextWord :=
  fun _ _ _ => step_of_due

/-- Settles O5: which of the two branches is taken depends on the event alone. -/
theorem observerRequestsComeFirst : Obligations.ObserverRequestsComeFirst := by
  intro s e rest hp hr
  rw [step_of_reaction hp hr]
  cases e <;> simp [observerMay, select]

/-- Settles O6: the word carries `RESET` alone. -/
theorem resetWinsOverEveryOtherEvent : Obligations.ResetWinsOverEveryOtherEvent :=
  fun _ _ _ hs hw h5 => step_of_single hs hw (strobes_of_reset h5)

/-- Settles O7: either parameter is out of range. -/
theorem timerParameterZeroIsRefused : Obligations.TimerParameterZeroIsRefused := by
  intro s h
  refine step_of_params_out_of_range ?_
  rcases h with h | h <;> simp [paramsInRange, h]

/-- What an input event or a `NOP` can answer: a next state, or one of the two refusals of `REGCB`. -/
theorem exec_select_answers (ph : Phase) (e : Event) (u : State) :
    (∃ t, exec (select ph e) u = .next t) ∨ exec (select ph e) u = .refused .repeatedRegistration ∨
      exec (select ph e) u = .refused .lateRegistration := by
  cases e with
  | reset | cnt | read | validq => exact .inl ⟨_, rfl⟩
  | tick => cases ph <;> exact .inl ⟨_, rfl⟩
  | edge d => cases d <;> exact .inl ⟨_, rfl⟩
  | regcb =>
    change (∃ t, execRegcb u = .next t) ∨ execRegcb u = _ ∨ execRegcb u = _
    unfold execRegcb
    split
    · exact .inr (.inl rfl)
    · split
      · exact .inl ⟨_, rfl⟩
      · exact .inr (.inr rfl)

/-- What a step can answer. -/
theorem step_answers (s : State) :
    (∃ t, step s = .next t) ∨ step s = .refused .lateRegistration ∨ step s = .refused .repeatedRegistration ∨
      step s = .refused .observerReentry ∨ step s = .refused .timerParameterOutOfRange := by
  unfold step
  cases hf : fetch s with
  | stop r =>
    rcases fetch_stop hf with ⟨-, rfl⟩ | ⟨-, -, -, -, rfl⟩
    · exact .inr (.inr (.inr (.inr rfl)))
    · exact .inr (.inr (.inr (.inl rfl)))
  | run i u =>
    rcases (fetch_frame hf).1 with rfl | ⟨e, rfl⟩
    · exact .inl ⟨u, rfl⟩
    · rcases exec_select_answers s.phase e u with h | h | h
      · exact .inl h
      · exact .inr (.inr (.inl h))
      · exact .inr (.inl h)

/-- Settles O8: none of the answers of `step_answers` is a fault or another refusal. -/
theorem stepNeverFaults : Obligations.StepNeverFaults := by
  intro s
  rcases step_answers s with ⟨t, h⟩ | h | h | h | h <;> simp [h, eq_comm]

end Sys2Proof.Machine
end

section
/-!
PROOF. What no operation does, whatever it is: writing the parameters, the consumer's observers or the script, or
adding an event to those due.
-/
namespace Sys2Proof.Machine

/-- What a step finds in the state but no operation writes: the parameters (R5), the observers that the consumer
has (R136) and the input still to come (R24). -/
def State.environment (s : State) : Params × Observers × List Byte := (s.params, s.consumer, s.script)

/-- What an input event leaves of the world outside and of the events due: all, and all or (`RESET`) none. -/
def State.Keeps (s t : State) : Prop := t.environment = s.environment ∧ (t.due = s.due ∨ t.due = [])

theorem tick_keeps (s : State) : s.Keeps (tick s) := by
  cases hp : s.phase with
  | idle => rw [tick_of_idle hp, tickIdle_eq]; exact ⟨rfl, .inl rfl⟩
  | reading => rw [tick_of_reading hp]; exact ⟨rfl, .inl rfl⟩

theorem countTick_keeps (s : State) : s.Keeps (countTick s) := by
  unfold countTick
  split
  · exact tick_keeps s
  · exact ⟨rfl, .inl rfl⟩

theorem edge_keeps (d : Bool) (s : State) : s.Keeps (edge d s) := by
  rcases edge_cases d s with ⟨-, h⟩ | ⟨-, -, h⟩ | ⟨-, -, h⟩ <;> rw [h] <;> exact ⟨rfl, .inl rfl⟩

theorem exec_select_keeps {ph : Phase} {e : Event} {u t : State} (h : exec (select ph e) u = .next t) :
    u.Keeps t := by
  rcases exec_select_next h with ⟨-, rfl⟩ | ⟨-, rfl⟩ | ⟨-, -, rfl⟩ | ⟨-, -, rfl⟩ | ⟨d, -, rfl⟩ | ⟨-, rfl⟩ |
    ⟨-, rfl⟩ | ⟨-, -, -, rfl⟩
  · exact ⟨rfl, .inr rfl⟩
  · exact countTick_keeps u
  · rw [tickIdle_eq]; exact ⟨rfl, .inl rfl⟩
  · exact ⟨rfl, .inl rfl⟩
  · exact edge_keeps d u
  · exact ⟨rfl, .inl rfl⟩
  · exact ⟨rfl, .inl rfl⟩
  · exact ⟨rfl, .inl rfl⟩

theorem State.Keeps.params {s t : State} (h : s.Keeps t) : t.params = s.params :=
  congrArg Prod.fst h.1

end Sys2Proof.Machine
end

section
/-!
PROOF. All the events of a word (30_encoding.md section 4, R64; R137): the steps that a word takes are `performAll`
of its events in their serial order.
-/
namespace Sys2Proof.Machine

/-! ## One answer after another -/

/-- Go on from a next state; a fault or a refusal ends it. -/
def thenRun (a : Answer) (f : State → Answer) : Answer :=
  match a with
  | .next t => f t
  | .fault r => .fault r
  | .refused r => .refused r

@[simp] theorem thenRun_next (t : State) (f : State → Answer) : thenRun (.next t) f = f t := rfl

@[simp] theorem thenRun_refused (r : Refusal) (f : State → Answer) :
    thenRun (.refused r) f = .refused r := rfl

theorem thenRun_assoc (a : Answer) (f g : State → Answer) :
    thenRun (thenRun a f) g = thenRun a fun t => thenRun (f t) g := by
  cases a <;> rfl

theorem runSteps_succ (n : Nat) (s : State) : runSteps (n + 1) s = thenRun (step s) (runSteps n) := by
  rw [runSteps]
  cases step s <;> rfl

theorem runSteps_add (m n : Nat) (s : State) : runSteps (m + n) s = thenRun (runSteps m s) (runSteps n) := by
  induction m generalizing s with
  | zero => rw [Nat.zero_add]; rfl
  | succ m ih => rw [Nat.succ_add, runSteps_succ, runSteps_succ, thenRun_assoc]; exact congrArg _ (funext ih)

theorem serveRequests_cons (e : Event) (es : List Event) (s : State) :
    serveRequests (e :: es) s =
      if observerMay e then thenRun (exec (select s.phase e) s) (serveRequests es)
      else .refused .observerReentry := by
  rw [serveRequests]
  cases exec (select s.phase e) s <;> rfl

/-- `performAll` serves the requests that an event has queued before the next event. -/
theorem performAll_cons (e : Event) (es : List Event) (s : State) :
    performAll (e :: es) s =
      thenRun (exec (select s.phase e) s) fun t =>
        thenRun (serveRequests t.reactions { t with reactions := [] }) (performAll es) := by
  rw [performAll]
  cases exec (select s.phase e) s with
  | next t =>
    dsimp only [thenRun_next]
    cases serveRequests t.reactions { t with reactions := [] } <;> rfl
  | fault | refused => rfl

/-- A number of steps for each next state is a number of steps for the answer. -/
theorem exists_runSteps_thenRun {a : Answer} {before : State → State} {g : State → Answer} {l : Nat}
    (h : ∀ t, a = .next t → ∃ k, l ≤ k ∧ runSteps k (before t) = g t) :
    ∃ k, l ≤ k ∧ thenRun a (fun t => runSteps k (before t)) = thenRun a g := by
  cases a with
  | next t => exact h t rfl
  | fault | refused => exact ⟨l, Nat.le_refl l, rfl⟩

/-! ## The queues do not matter to an operation -/

/-- `s` with these events due. -/
def withDue (es : List Event) (s : State) : State := { s with due := es }

/-- `s` with these requests of observers still to be served. -/
def withReactions (rs : List Event) (s : State) : State := { s with reactions := rs }

theorem withDue_of_eq {es : List Event} {s : State} (h : s.due = es) : withDue es s = s := by subst h; rfl

theorem withReactions_of_eq {rs : List Event} {s : State} (h : s.reactions = rs) : withReactions rs s = s := by
  subst h; rfl

theorem tick_withDue (es : List Event) (s : State) : tick (withDue es s) = withDue es (tick s) := by
  cases hp : s.phase with
  | idle => rw [tick_of_idle hp, tick_of_idle (s := withDue es s) hp]; rfl
  | reading => rw [tick_of_reading hp, tick_of_reading (s := withDue es s) hp]; rfl

theorem countTick_withDue (es : List Event) (s : State) :
    countTick (withDue es s) = withDue es (countTick s) := by
  by_cases h : s.timerCnt.toNat + 1 < s.timerTop.toNat
  · rw [countTick_of_running h, countTick_of_running (s := withDue es s) h]; rfl
  · have hexp := Nat.not_lt.1 h
    rw [countTick_of_expiry hexp, countTick_of_expiry (s := withDue es s) hexp, tick_withDue]

theorem edge_withDue (d : Bool) (es : List Event) (s : State) :
    edge d (withDue es s) = withDue es (edge d s) := by
  rcases edge_cases d s with ⟨hacc, h⟩ | ⟨ha, hi, h⟩ | ⟨ha, hi, h⟩
  · rw [h, edge_of_ignored (s := withDue es s) d hacc]
  · rw [h, edge_of_middle (s := withDue es s) d ha hi]; rfl
  · rw [h, edge_of_last (s := withDue es s) d ha hi]; rfl

/-- What is due does not matter to an event, nor the event to it, save that `RESET` leaves nothing due. -/
theorem exec_select_withDue {e : Event} {es : List Event} (ph : Phase) (u : State)
    (hreset : e = .reset → es = []) :
    exec (select ph e) (withDue es u) =
      thenRun (exec (select ph e) u) fun t => .next (withDue es t) := by
  cases e with
  | reset => rw [hreset rfl]; rfl
  | cnt => exact congrArg _ (countTick_withDue es u)
  | tick => cases ph <;> rfl
  | edge d => cases d <;> exact congrArg _ (edge_withDue _ es u)
  | read | validq => rfl
  | regcb =>
    change execRegcb (withDue es u) = thenRun (execRegcb u) _
    unfold execRegcb withDue
    dsimp only
    split
    · rfl
    · split <;> rfl

/-- An observer's request does not see the other requests. -/
theorem exec_request_withReactions {e : Event} (he : observerMay e = true) (ph : Phase) (rs : List Event)
    (u : State) :
    exec (select ph e) (withReactions rs u) =
      thenRun (exec (select ph e) u) fun t => .next (withReactions rs t) := by
  cases e with
  | read | validq => rfl
  | reset | cnt | tick | edge | regcb => cases he

/-- An observer's request writes the trace only. -/
theorem exec_request_frame {e : Event} {ph : Phase} {u t : State} (he : observerMay e = true)
    (h : exec (select ph e) u = .next t) : t = { u with trace := t.trace } := by
  cases e with
  | read | validq => cases h; rfl
  | reset | cnt | tick | edge | regcb => cases he

theorem serveRequests_frame {rs : List Event} {u t : State} (h : serveRequests rs u = .next t) :
    t = { u with trace := t.trace } := by
  induction rs generalizing u with
  | nil => cases h; rfl
  | cons e rs ih =>
    rw [serveRequests_cons] at h
    split at h
    case isFalse => cases h
    case isTrue he =>
      cases hx : exec (select u.phase e) u with
      | next v =>
        rw [hx, thenRun_next] at h
        rw [ih h, exec_request_frame he hx]
      | fault | refused => rw [hx] at h; cases h

theorem serveRequests_withDue (rs es : List Event) (u : State) :
    serveRequests rs (withDue es u) = thenRun (serveRequests rs u) fun t => .next (withDue es t) := by
  induction rs generalizing u with
  | nil => rfl
  | cons e rs ih =>
    rw [serveRequests_cons, serveRequests_cons]
    split
    case isFalse => rfl
    case isTrue he =>
      have hne : e = .reset → es = [] := by rintro rfl; cases he
      change thenRun (exec (select u.phase e) (withDue es u)) _ = _
      rw [exec_select_withDue _ _ hne, thenRun_assoc, thenRun_assoc]
      simp only [thenRun_next, ih]

/-! ## The steps -/

/-- One step for each request. -/
theorem runSteps_requests (rs : List Event) {u : State} (hp : paramsInRange u.params = true)
    (hr : u.reactions = []) : runSteps rs.length (withReactions rs u) = serveRequests rs u := by
  induction rs generalizing u with
  | nil => rw [withReactions_of_eq hr]; rfl
  | cons e rs ih =>
    rw [List.length_cons, runSteps_succ, step_of_reaction (s := withReactions (e :: rs) u) hp rfl,
      serveRequests_cons]
    split
    case isFalse => rfl
    case isTrue he =>
      change thenRun (exec (select u.phase e) (withReactions rs u)) _ = _
      rw [exec_request_withReactions he, thenRun_assoc]
      cases hx : exec (select u.phase e) u with
      | next v =>
        have hv := exec_request_frame he hx
        exact ih (by rw [hv]; exact hp) (by rw [hv]; exact hr)
      | fault | refused => rfl

/-- From a state with nothing to serve but the events `es`, some number of steps performs them. -/
def StepsPerform (es : List Event) : Prop :=
  ∀ u : State, paramsInRange u.params = true → u.reactions = [] → u.due = [] →
    ∃ n, es.length ≤ n ∧ runSteps n (withDue es u) = performAll es u

/-- The steps after an event, the requests it has queued coming before the events left. -/
theorem StepsPerform.after_event {es : List Event} (h : StepsPerform es) {t : State}
    (hp : paramsInRange t.params = true) (hd : t.due = []) :
    ∃ k, es.length ≤ k ∧ runSteps k (withDue es t) =
      thenRun (serveRequests t.reactions (withReactions [] t)) (performAll es) := by
  obtain ⟨k, hk, hsteps⟩ := exists_runSteps_thenRun (a := serveRequests t.reactions (withReactions [] t))
    (before := withDue es) (g := performAll es) (l := es.length) fun v hv => by
      have hframe := serveRequests_frame hv
      exact h v (by rw [hframe]; exact hp) (by rw [hframe]; rfl) (by rw [hframe]; exact hd)
  refine ⟨t.reactions.length + k, by omega, ?_⟩
  have hserve : runSteps t.reactions.length (withDue es t) =
      thenRun (serveRequests t.reactions (withReactions [] t)) fun v => .next (withDue es v) :=
    (runSteps_requests t.reactions (u := withDue es (withReactions [] t)) hp rfl).trans
      (serveRequests_withDue _ es _)
  rw [runSteps_add, hserve, thenRun_assoc]
  exact hsteps

/-- `RESET` drops what is due with it (R156), so it must be the only event. -/
theorem stepsPerform (es : List Event) (hreset : Event.reset ∈ es → es = [.reset]) : StepsPerform es := by
  induction es with
  | nil => exact fun u _ _ hd => ⟨0, Nat.le_refl 0, by rw [withDue_of_eq hd]; rfl⟩
  | cons e es ih =>
    intro u hp hr hd
    have halone (h : Event.reset ∈ e :: es) : es = [] := (List.cons.inj (hreset h)).2
    have hrest : StepsPerform es := ih fun hmem => by
      rw [halone (List.mem_cons_of_mem e hmem)] at hmem
      cases hmem
    have hstep : step (withDue (e :: es) u) =
        thenRun (exec (select u.phase e) u) fun t => .next (withDue es t) :=
      (step_of_due (s := withDue (e :: es) u) hp hr rfl).trans
        (exec_select_withDue _ u fun he => halone (by simp [he]))
    obtain ⟨k, hk, hsteps⟩ := exists_runSteps_thenRun (a := exec (select u.phase e) u) fun t ht =>
      have hkeeps := exec_select_keeps ht
      hrest.after_event (hkeeps.params ▸ hp) (hkeeps.2.elim (·.trans hd) id)
    refine ⟨k + 1, by simpa using hk, ?_⟩
    rw [runSteps_succ, hstep, thenRun_assoc, performAll_cons]
    exact hsteps

/-- `s` with its first event word taken from the script. -/
def takeWord (rest : List Byte) (s : State) : State :=
  { s with script := rest, orderCount := s.orderCount + 1 }

/-- The first step of a word is the step that would be taken if all its events were due. -/
theorem step_eq_step_withDue {s : State} {w : Byte} {rest : List Byte} (hs : ready s)
    (hw : s.script = w :: rest) (hne : serialOrder (strobes w) (Config.freeOrder s.orderCount) ≠ []) :
    step s = step (withDue (serialOrder (strobes w) (Config.freeOrder s.orderCount)) (takeWord rest s)) := by
  obtain ⟨e, es, ho⟩ := List.exists_cons_of_ne_nil hne
  rw [ho, step_of_order hs hw ho]
  exact (step_of_due (s := withDue (e :: es) (takeWord rest s)) hs.1 hs.2.1 rfl).symm

theorem runSteps_congr {s t : State} {n : Nat} (hn : 0 < n) (h : step s = step t) :
    runSteps n s = runSteps n t := by
  obtain ⟨k, rfl⟩ := Nat.exists_eq_succ_of_ne_zero hn.ne'
  rw [runSteps_succ, runSteps_succ, h]

/-- Settles O45: in the serial order of the word, by the steps that serve its events as if all of them were due. -/
theorem eventsOfAWordAreAllPerformed : Obligations.EventsOfAWordAreAllPerformed := by
  intro s w rest hs hw hne
  have hperm := serialOrder_perm (strobes w) (Config.freeOrder s.orderCount)
  have hcons := step_eq_step_withDue hs hw fun ho => hne (ho ▸ hperm).nil_eq.symm
  have hpos := hperm.length_eq ▸ List.length_pos_of_ne_nil hne
  generalize serialOrder (strobes w) (Config.freeOrder s.orderCount) = order at *
  have hreset (hmem : Event.reset ∈ order) : order = [.reset] :=
    List.perm_singleton.1 (strobes_of_reset_mem (hperm.mem_iff.1 hmem) ▸ hperm)
  obtain ⟨hp, hr, hd⟩ := hs
  obtain ⟨n, hn, hsteps⟩ := stepsPerform order hreset (takeWord rest s) hp hr hd
  exact ⟨order, n, hperm, hn, (runSteps_congr (hpos.trans_le hn) hcons).trans hsteps⟩

end Sys2Proof.Machine
end

section
/-!
PROOF. The Timing Controller (40_timing_controller.md): the arms of `TICK`, the frame reset, and the counter that
performs `TICK` at its expiry.
-/
namespace Sys2Proof.Machine

theorem exec_cnt (s : State) : exec .cnt s = .next (countTick s) := rfl

theorem exec_frameReset (s : State) : exec .frameReset s = .next (frameReset s) := rfl

/-- R81: the arm that the phase selects is `tick`. -/
theorem exec_select_tick (s : State) : exec (select s.phase .tick) s = .next (tick s) := by
  unfold tick
  cases s.phase <;> rfl

theorem tick_phase_ne (s : State) : (tick s).phase ≠ s.phase := by
  cases hp : s.phase with
  | idle => rw [tick_of_idle hp, tickIdle_eq]; simp
  | reading => rw [tick_of_reading hp, tickReading_eq]; simp

theorem exec_cnt_of_expiry {s : State} (h : s.timerTop.toNat ≤ s.timerCnt.toNat + 1) :
    exec .cnt s = exec (select s.phase .tick) s := by
  rw [exec_cnt, countTick_of_expiry h, exec_select_tick]

theorem exec_cnt_of_running {s : State} (h : s.timerCnt.toNat + 1 < s.timerTop.toNat) :
    exec .cnt s = .next { s with timerCnt := s.timerCnt + 1 } := by
  rw [exec_cnt, countTick_of_running h]

/-! ## One operation -/

/-- Settles O12: either dispatch, and a `CNT` at the expiry, is `tick`, which turns the phase over. -/
theorem tickIsDispatchedOnThePhase : Obligations.TickIsDispatchedOnThePhase := by
  refine ⟨by decide, fun s => ⟨fun h => ?_, fun h => ?_, exec_cnt_of_expiry,
    tick s, exec_select_tick s, tick_phase_ne s⟩⟩ <;> rw [h] <;> rfl

/-- Settles O13: the post-state of `tickIdle_eq`, which emits the three events in that order. -/
theorem tickIdleOpensTheFrame : Obligations.TickIdleOpensTheFrame := by
  intro s
  refine ⟨tickIdle s, [.trigFall, .trigRise, .notifyInvalid], exec_tickIdle s, ?_, .refl _, by decide, ?_, ?_⟩
  all_goals simp [tickIdle_eq]

/-- Settles O14: the post-state of `tickReading_eq`. -/
theorem tickReadingClosesTheWindow : Obligations.TickReadingClosesTheWindow :=
  ⟨by decide, rfl, fun s => ⟨tickReading s, exec_tickReading s, tickReading_eq s⟩⟩

/-- Settles O15: the cleared buffer lists no byte. -/
theorem frameResetClearsTheWorkingFrame : Obligations.FrameResetClearsTheWorkingFrame := fun s =>
  ⟨frameReset s, exec_frameReset s, byte_cleared, image_cleared, rfl⟩

theorem toNat_succ_count {s : State} (h : s.timerCnt.toNat + 1 < s.timerTop.toNat) :
    (s.timerCnt + 1).toNat = s.timerCnt.toNat + 1 := by
  bv_omega

/-- Settles O16: one rule of `CNT` for each of the two conditions. -/
theorem cntCountsOrTicks : Obligations.CntCountsOrTicks := fun s =>
  ⟨fun h => ⟨_, exec_cnt_of_running h, toNat_succ_count h, rfl⟩,
   fun h => ⟨_, (exec_cnt_of_expiry h).trans (exec_select_tick s), exec_select_tick s⟩⟩

/-! ## A phase -/

/-- `CNT`s that do not expire the timer only count. -/
theorem runAll_cnt_of_running (n : Nat) {s : State} (h : s.timerCnt.toNat + n < s.timerTop.toNat) :
    runAll (List.replicate n .cnt) s = .next { s with timerCnt := s.timerCnt + BitVec.ofNat 16 n } := by
  induction n generalizing s with
  | zero => simp [runAll]
  | succ n ih =>
    have hone : s.timerCnt.toNat + 1 < s.timerTop.toNat := by omega
    simp only [List.replicate_succ, runAll, exec_cnt_of_running hone]
    rw [ih (by simp only [toNat_succ_count hone]; omega)]
    have hsum : s.timerCnt + 1 + BitVec.ofNat 16 n = s.timerCnt + BitVec.ofNat 16 (n + 1) := by bv_omega
    rw [hsum]

/-- `TICK` restarts the count, whatever it is. -/
theorem tick_timerCnt (s : State) (c : TimerWord) : tick { s with timerCnt := c } = tick s := by
  unfold tick
  cases s.phase <;> rfl

/-- From a count of 0, the `timer_top`-th `CNT` is `TICK` (R85). -/
theorem runAll_cnt_phase {s : State} (hcnt : s.timerCnt = 0) (htop : 0 < s.timerTop.toNat) :
    runAll (List.replicate s.timerTop.toNat .cnt) s = .next (tick s) := by
  obtain ⟨n, hn⟩ := Nat.exists_eq_succ_of_ne_zero htop.ne'
  have hrun := runAll_cnt_of_running n (s := s) (by simp [hcnt]; omega)
  have hexp : s.timerTop.toNat ≤ (s.timerCnt + BitVec.ofNat 16 n).toNat + 1 := by
    have := s.timerTop.isLt
    simp [hcnt]; omega
  rw [hn, List.replicate_succ', runAll_append, hrun]
  simp only [runAll, exec_cnt]
  rw [countTick_of_expiry hexp, tick_timerCnt]

/-- Settles O17. -/
theorem phaseLastsItsProgrammedLength : Obligations.PhaseLastsItsProgrammedLength := by
  intro s hcnt htop
  refine ⟨fun n hn => ?_, ?_⟩
  · rw [runAll_cnt_of_running n (by simp [hcnt]; omega), hcnt, zero_add]
  · rw [runAll_cnt_phase hcnt htop, exec_select_tick]

/-- Settles O18: two phases, one after the other, each as long as it is programmed. -/
theorem pollingCycleIsTheSumOfThePhases : Obligations.PollingCycleIsTheSumOfThePhases := by
  intro s hinv hidle hcnt
  obtain ⟨htIdle, htRead⟩ := (paramsInRange_iff _).1 hinv.params
  have htop : s.timerTop = s.params.tIdle := by rw [hinv.timerTop, phaseLength, hidle]
  have hrequest : runAll (List.replicate s.params.tIdle.toNat .cnt) s = .next (tickIdle s) := by
    rw [← tick_of_idle hidle, ← htop]
    exact runAll_cnt_phase hcnt (htop ▸ htIdle)
  have hclose : runAll (List.replicate s.params.tRead.toNat .cnt) (tickIdle s) =
      .next (tickReading (tickIdle s)) :=
    runAll_cnt_phase (s := tickIdle s) rfl htRead
  rw [List.replicate_add, runAll_append, hrequest]
  exact hclose

end Sys2Proof.Machine
end

section
/-!
PROOF. The consumer's side (43_snapshot_synchronizer.md sections 5 and 6, U4, U5): notifications, the one
registration, and what the model keeps for them.
-/
namespace Sys2Proof.Machine

theorem exec_notifyValid (s : State) : exec .notifyValid s = .next (notifyValid s) := rfl

theorem exec_notifyInvalid (s : State) : exec .notifyInvalid s = .next (notifyInvalid s) := rfl

/-! ## Notifications -/

theorem requests_of_registered {s : State} {o : Observers} (h : s.registered = some o) :
    onValidRequests s = o.onValid ∧ onInvalidRequests s = o.onInvalid := by
  simp [onValidRequests, onInvalidRequests, h]

theorem requests_of_unregistered {s : State} (h : s.registered = none) :
    onValidRequests s = [] ∧ onInvalidRequests s = [] := by
  simp [onValidRequests, onInvalidRequests, h]

/-- Settles O22: a notification is an emission and then a reaction. -/
theorem notificationsAreOutputEvents : Obligations.NotificationsAreOutputEvents := fun s =>
  ⟨exec_notifyValid s, exec_notifyInvalid s, fun _ => requests_of_registered, requests_of_unregistered⟩

/-! ## The registration -/

theorem exec_regcb_of_repeated {s : State} (h : s.registered ≠ none) :
    exec .regcb s = .refused .repeatedRegistration := by
  simp [exec, execRegcb, Option.isSome_iff_ne_none.2 h]

theorem exec_regcb_of_open {s : State} (h : s.registered = none) (hopen : s.configOpen = true) :
    exec .regcb s = .next { s with registered := some s.consumer } := by
  simp [exec, execRegcb, h, hopen]

theorem exec_regcb_of_closed {s : State} (h : s.registered = none) (hopen : s.configOpen = false) :
    exec .regcb s = .refused .lateRegistration := by
  simp [exec, execRegcb, h, hopen]

/-- A registration that completes is the first and comes in time. -/
theorem exec_regcb_next {s t : State} (h : exec .regcb s = .next t) :
    s.registered = none ∧ s.configOpen = true ∧ t = { s with registered := some s.consumer } := by
  by_cases hnone : s.registered = none
  · by_cases hopen : s.configOpen = true
    · rw [exec_regcb_of_open hnone hopen] at h; cases h; exact ⟨hnone, hopen, rfl⟩
    · rw [exec_regcb_of_closed hnone (by simpa using hopen)] at h; cases h
  · rw [exec_regcb_of_repeated hnone] at h; cases h

/-- Settles O23: one rule of `REGCB` for each of the three cases. -/
theorem registrationHappensOnceAtStartup : Obligations.RegistrationHappensOnceAtStartup := fun _ =>
  ⟨exec_regcb_of_open, exec_regcb_of_repeated, exec_regcb_of_closed⟩

/-- Settles O24: the rule of `NOP`. -/
theorem nopChangesNothing : Obligations.NopChangesNothing := exec_nop

/-! ## The startup window and the observer queue -/

theorem edge_configOpen (d : Bool) (s : State) : (edge d s).configOpen = s.configOpen := by
  rcases edge_cases d s with ⟨-, h⟩ | ⟨-, -, h⟩ | ⟨-, -, h⟩ <;> rw [h]

/-- Only the edge that completes a frame invokes an observer. -/
theorem edge_reactions (d : Bool) (s : State) : (edge d s).reactions = s.reactions ++
    if s.edgeArmed = true ∧ s.bitIndex.toNat = 47 then onValidRequests s else [] := by
  rcases edge_cases d s with ⟨hacc, h⟩ | ⟨-, hi, h⟩ | ⟨ha, hi, h⟩
  · have hno : ¬(s.edgeArmed = true ∧ s.bitIndex.toNat = 47) := fun ⟨ha, h47⟩ => by
      simp [accepts, ha, h47, Config.nBits] at hacc
    rw [h, if_neg hno, List.append_nil]
  · have hno : ¬(s.edgeArmed = true ∧ s.bitIndex.toNat = 47) := fun ⟨_, h47⟩ => by
      rw [h47] at hi; exact absurd hi (by decide)
    rw [h, if_neg hno, List.append_nil]
  · rw [h, if_pos ⟨ha, Nat.succ_inj.1 hi⟩]

/-- Settles O21: `TICK` by its two post-states, `EDGE` by what it leaves of the two fields. -/
theorem startupWindowAndObserverQueue : Obligations.StartupWindowAndObserverQueue := fun s =>
  ⟨⟨tickIdle s, exec_tickIdle s, by simp [tickIdle_eq], by simp [tickIdle_eq]⟩,
   ⟨tickReading s, exec_tickReading s, rfl, rfl⟩,
   fun d => ⟨edge d s, exec_edgeOp d s, edge_configOpen d s, edge_reactions d s⟩⟩

/-! ## What the consumer learns -/

/-- Settles O44: `READ` and `VALIDQ` return an element on which the states agree, and whether `REGCB` completes
depends on such elements alone. -/
theorem consumerLearnsOnlyPubAndValidity : Obligations.ConsumerLearnsOnlyPubAndValidity := by
  intro i s s' t hi hpub hvalid hreg hopen ht
  cases i with
  | read =>
    cases ht
    exact ⟨_, [.returned (.sample s.pub)], exec_read s', rfl, by rw [emit_trace, hpub]⟩
  | validq =>
    cases ht
    exact ⟨_, [.returned (.validity s.sampleValid)], exec_validq s', rfl, by rw [emit_trace, hvalid]⟩
  | regcb =>
    obtain ⟨hnone, hopened, rfl⟩ := exec_regcb_next ht
    exact ⟨_, [], exec_regcb_of_open (hreg ▸ hnone) (hopen ▸ hopened), by simp, by simp⟩
  | _ => cases hi

end Sys2Proof.Machine
end

section
/-!
PROOF. What a step can do to the working frame and to the published sample (10_state.md section 6,
40_timing_controller.md section 3): it is said once, and the invariants over a step are read off.
-/
namespace Sys2Proof.Machine

/-- The working frame with its index, and the published sample with its validity. -/
def State.sampling (s : State) : Memory × BitVec 6 × Bool × Frame × Bool :=
  (s.wf, s.bitIndex, s.complete, s.pub, s.sampleValid)

theorem sampling_eq_iff {t : State} {m : Memory} {b : BitVec 6} {c : Bool} {p : Frame} {v : Bool} :
    t.sampling = (m, b, c, p, v) ↔
      t.wf = m ∧ t.bitIndex = b ∧ t.complete = c ∧ t.pub = p ∧ t.sampleValid = v := by
  simp [State.sampling]

/-- The five things that a step from `s` to `t` can do to them. -/
inductive SamplingStep (s t : State) : Prop
  | kept (after : t.sampling = s.sampling)
  | reset (phase : t.phase = .idle) (trace : t.trace = [])
      (after : t.sampling = ([], 0, false, Config.pubReset, false))
  | request (before : s.phase = .idle) (phase : t.phase = .reading)
      (after : t.sampling = ([], 0, false, s.pub, false))
  | bit (d : Bool) (armed : s.edgeArmed = true) (more : s.bitIndex.toNat + 1 < Config.nBits)
      (after : t.sampling =
        (packMemory s.bitIndex.toNat d s.wf, s.bitIndex + 1, s.complete, s.pub, s.sampleValid))
  | frame (d : Bool) (armed : s.edgeArmed = true) (last : s.bitIndex.toNat + 1 = Config.nBits)
      (after : t.sampling =
        (packMemory s.bitIndex.toNat d s.wf, s.bitIndex + 1, true,
          Memory.image (packMemory s.bitIndex.toNat d s.wf), true))

theorem edge_samplingStep (d : Bool) (s : State) : SamplingStep s (edge d s) := by
  rcases edge_cases d s with ⟨-, h⟩ | ⟨ha, hi, h⟩ | ⟨ha, hi, h⟩ <;> rw [h]
  · exact .kept rfl
  · exact .bit d ha hi rfl
  · exact .frame d ha hi rfl

/-- The model's own queues do not matter. -/
theorem SamplingStep.of_queues {s t u : State} (h : SamplingStep u t) (hs : u.sampling = s.sampling)
    (hp : u.phase = s.phase) (ha : u.edgeArmed = s.edgeArmed) : SamplingStep s t := by
  obtain ⟨hwf, hidx, hc, hpub, hv⟩ := sampling_eq_iff.1 hs
  cases h with
  | kept after => exact .kept (after.trans hs)
  | reset phase trace after => exact .reset phase trace after
  | request before phase after => exact .request (hp ▸ before) phase (hpub ▸ after)
  | bit d armed more after => rw [hwf, hidx, hc, hpub, hv] at *; exact .bit d (ha ▸ armed) more after
  | frame d armed last after => rw [hwf, hidx] at *; exact .frame d (ha ▸ armed) last after

theorem step_samplingStep {s t : State} (h : step s = .next t) : SamplingStep s t := by
  obtain ⟨u, hu, ht⟩ := step_cases h
  have hphase : u.phase = s.phase := by rw [hu]
  refine SamplingStep.of_queues (u := u) ?_ (by rw [hu]; rfl) hphase (by rw [hu])
  rcases ht with rfl | rfl | ⟨hp, rfl⟩ | ⟨-, rfl⟩ | ht | ⟨d, rfl⟩ | ⟨r, rfl⟩ | rfl
  · exact .kept rfl
  · exact .reset rfl rfl rfl
  · rw [tickIdle_eq]; exact .request (hphase.trans hp) rfl rfl
  · exact .kept rfl
  · rw [ht]; exact .kept rfl
  · exact edge_samplingStep d u
  · exact .kept rfl
  · exact .kept rfl

/-- The index after the bit that completes the frame. -/
theorem toNat_index_of_last {s : State} (h : s.bitIndex.toNat + 1 = Config.nBits) :
    s.bitIndex.toNat = 47 ∧ (s.bitIndex + 1).toNat = 48 :=
  ⟨Nat.succ_inj.1 h, (toNat_succ_index (by omega)).trans h⟩

/-- Settles O40: of the five things a step can do, only two write `pub`. -/
theorem publishedSampleChangesOnlyWhenAFrameCompletes :
    Obligations.PublishedSampleChangesOnlyWhenAFrameCompletes := by
  intro s t hinv hstep hne
  cases step_samplingStep hstep with
  | kept after | request before phase after | bit d armed more after =>
    obtain ⟨-, -, -, hpub, -⟩ := sampling_eq_iff.1 after
    exact absurd hpub hne
  | reset phase trace after =>
    obtain ⟨-, -, -, hpub, hv⟩ := sampling_eq_iff.1 after
    exact .inr ⟨hpub, hv, phase, trace⟩
  | frame d armed last after =>
    obtain ⟨hwf, hidx, -, hpub, hv⟩ := sampling_eq_iff.1 after
    obtain ⟨h47, h48⟩ := toNat_index_of_last last
    exact .inl ⟨h47, hidx ▸ h48, hinv.armedIff.1 armed, hwf ▸ hpub, hv⟩

/-- Settles O41: of the five things a step can do, one sets the flag and two clear it. -/
theorem validityRisesAtCompletionAndFallsAtTheRequest :
    Obligations.ValidityRisesAtCompletionAndFallsAtTheRequest := by
  intro s t hstep
  cases step_samplingStep hstep with
  | kept after | bit d armed more after =>
    obtain ⟨-, -, -, -, hv⟩ := sampling_eq_iff.1 after
    exact ⟨fun h0 h1 => by simp [hv, h0] at h1, fun h1 h0 => by simp [hv, h1] at h0⟩
  | reset phase trace after =>
    obtain ⟨hwf, hidx, -, hpub, hv⟩ := sampling_eq_iff.1 after
    exact ⟨fun _ h => by simp [hv] at h, fun _ _ => ⟨hidx, by simp [hwf], .inr ⟨phase, hpub⟩⟩⟩
  | request before phase after =>
    obtain ⟨hwf, hidx, -, hpub, hv⟩ := sampling_eq_iff.1 after
    exact ⟨fun _ h => by simp [hv] at h,
      fun _ _ => ⟨hidx, by simp [hwf], .inl ⟨before, phase, hpub⟩⟩⟩
  | frame d armed last after =>
    obtain ⟨hwf, hidx, -, hpub, hv⟩ := sampling_eq_iff.1 after
    obtain ⟨h47, h48⟩ := toNat_index_of_last last
    exact ⟨fun _ _ => ⟨armed, h47, hidx ▸ h48, hwf ▸ hpub⟩, fun _ h => by simp [hv] at h⟩

/-- Storing a bit clears none. -/
theorem packMemory_getLsbD_of_set {m : Memory} {k i : Nat} (d : Bool) (hk : k < Config.nBits)
    (h : (Memory.image m).getLsbD i = true) : (Memory.image (packMemory k d m)).getLsbD i = true := by
  rw [packMemory_getLsbD m k i d hk, h, Bool.true_or]

/-- Settles O42: a step that does not clear the whole buffer keeps it or stores a bit. -/
theorem workingFrameIsClearedOnlyAsAWhole : Obligations.WorkingFrameIsClearedOnlyAsAWhole := by
  intro s t i hstep hset hclear
  cases step_samplingStep hstep with
  | kept after =>
    rw [(sampling_eq_iff.1 after).1, hset] at hclear
    cases hclear
  | reset phase trace after =>
    obtain ⟨hwf, hidx, hc, hpub, -⟩ := sampling_eq_iff.1 after
    exact ⟨by rw [hwf, image_nil], hidx, hc, .inr ⟨phase, hpub⟩⟩
  | request before phase after =>
    obtain ⟨hwf, hidx, hc, -, -⟩ := sampling_eq_iff.1 after
    exact ⟨by rw [hwf, image_nil], hidx, hc, .inl ⟨before, phase⟩⟩
  | bit d armed _ after | frame d armed _ after =>
    rw [(sampling_eq_iff.1 after).1, packMemory_getLsbD_of_set d (by omega) hset] at hclear
    cases hclear

end Sys2Proof.Machine
end

section
/-!
PROOF. The trace and the world outside (00_scope.md section 5, 10_state.md section 10, R24).
-/
namespace Sys2Proof.Machine

/-- A fetch takes one word of the script at most. -/
theorem fetch_script {s u : State} {i : Instr} (h : fetch s = .run i u) :
    ∃ served, s.script = served ++ u.script ∧ served.length ≤ 1 := by
  rcases (fetch_run h).2 with ⟨_, _, _, _, _, rfl⟩ | ⟨_, _, _, _, _, rfl⟩ | ⟨_, _, _, _, rfl⟩ |
    ⟨_, _, w, rest, hw, ⟨_, _, rfl⟩ | ⟨_, _, _, _, rfl⟩⟩
  · exact ⟨[], rfl, Nat.zero_le 1⟩
  · exact ⟨[], rfl, Nat.zero_le 1⟩
  · exact ⟨[], rfl, Nat.zero_le 1⟩
  · exact ⟨[w], hw, Nat.le_refl 1⟩
  · exact ⟨[w], hw, Nat.le_refl 1⟩

theorem step_environment {s t : State} (h : step s = .next t) :
    t.params = s.params ∧ t.consumer = s.consumer ∧
      ∃ served, s.script = served ++ t.script ∧ served.length ≤ 1 := by
  obtain ⟨i, u, hf, he⟩ := step_next h
  obtain ⟨hi, hu⟩ := fetch_frame hf
  have hkept : t.environment = u.environment := by
    rcases hi with rfl | ⟨e, rfl⟩
    · cases he; rfl
    · exact (exec_select_keeps he).1
  simp only [State.environment, Prod.mk.injEq] at hkept
  obtain ⟨hparams, hconsumer, hscript⟩ := hkept
  exact ⟨hparams.trans (by rw [hu]), hconsumer.trans (by rw [hu]), hscript ▸ fetch_script hf⟩

theorem edge_trace (d : Bool) (s : State) : ∃ out, (edge d s).trace = s.trace ++ out := by
  rcases edge_cases d s with ⟨-, h⟩ | ⟨-, -, h⟩ | ⟨-, -, h⟩ <;> rw [h]
  · exact ⟨[], (List.append_nil _).symm⟩
  · exact ⟨[], (List.append_nil _).symm⟩
  · exact ⟨_, rfl⟩

theorem step_trace {s t : State} (h : step s = .next t) :
    (∃ out, t.trace = s.trace ++ out) ∨ (t.trace = [] ∧ t.registered = none ∧ t.phase = .idle) := by
  obtain ⟨u, hu, ht⟩ := step_cases h
  have htrace : u.trace = s.trace := by rw [hu]
  rw [← htrace]
  rcases ht with rfl | rfl | ⟨-, rfl⟩ | ⟨-, rfl⟩ | ht | ⟨d, rfl⟩ | ⟨r, rfl⟩ | rfl
  · exact .inl ⟨[], (List.append_nil _).symm⟩
  · exact .inr ⟨rfl, rfl, rfl⟩
  · rw [tickIdle_eq]; exact .inl ⟨_, rfl⟩
  · exact .inl ⟨[], (List.append_nil _).symm⟩
  · rw [ht]; exact .inl ⟨[], (List.append_nil _).symm⟩
  · exact .inl (edge_trace d u)
  · exact .inl ⟨_, rfl⟩
  · exact .inl ⟨[], (List.append_nil _).symm⟩

/-- Settles O43: an operation keeps the environment that the fetch leaves it. -/
theorem traceGrowsAndParametersStay : Obligations.TraceGrowsAndParametersStay := by
  intro s t h
  obtain ⟨hparams, hconsumer, hscript⟩ := step_environment h
  exact ⟨hparams, hconsumer, hscript, step_trace h⟩

end Sys2Proof.Machine
end

section
/-!
PROOF. `TICK` and `EDGE` due together (60_exceptions.md section 3, R156): an edge in each phase, before and after
the `TICK`.
-/
namespace Sys2Proof.Machine

@[simp] theorem tickReading_wf (s : State) : (tickReading s).wf = s.wf := rfl
@[simp] theorem tickReading_bitIndex (s : State) : (tickReading s).bitIndex = s.bitIndex := rfl
@[simp] theorem tickReading_pub (s : State) : (tickReading s).pub = s.pub := rfl
@[simp] theorem tickReading_sampleValid (s : State) : (tickReading s).sampleValid = s.sampleValid := rfl

/-- The source is not armed in Idle. -/
theorem State.Inv.edgeArmed_of_idle {s : State} (h : s.Inv) (hidle : s.phase = .idle) : s.edgeArmed = false :=
  Bool.eq_false_iff.2 fun ha => by cases hidle.symm.trans (h.armedIff.1 ha)

theorem edge_of_disarmed {s : State} (d : Bool) (h : s.edgeArmed = false) : edge d s = s :=
  edge_of_ignored d ((accepts_eq_false_iff s).2 (.inl h))

/-- The first edge of a reading phase (R156, R100). -/
theorem edge_tickIdle (d : Bool) (s : State) :
    edge d (tickIdle s) = { tickIdle s with wf := packMemory 0 d [], bitIndex := 1 } := by
  rw [tickIdle_eq]
  exact edge_of_middle d rfl (by decide : (0 : BitVec 6).toNat + 1 < Config.nBits)

/-- What an armed edge stores while bits are missing. -/
theorem edge_stores {s : State} (d : Bool) (ha : s.edgeArmed = true) (hlt : s.bitIndex.toNat < Config.nBits) :
    storesBit s.wf (edge d s).wf s.bitIndex.toNat d ∧ (edge d s).bitIndex.toNat = s.bitIndex.toNat + 1 := by
  have hstored := packMemory_storesBit s.wf _ d hlt
  have hsucc := toNat_succ_index hlt
  rcases Nat.lt_or_eq_of_le (Nat.succ_le_of_lt hlt) with h | h
  · rw [edge_of_middle d ha h]; exact ⟨hstored, hsucc⟩
  · rw [edge_of_last d ha h]; exact ⟨hstored, hsucc⟩

theorem edge_publishes {s : State} (d : Bool) (ha : s.edgeArmed = true) (h : s.bitIndex.toNat = 47) :
    (edge d s).pub = Memory.image (edge d s).wf ∧ (edge d s).sampleValid = true := by
  rw [edge_of_last d ha (congrArg (· + 1) h)]
  exact ⟨rfl, rfl⟩

theorem edge_publishes_nothing {s : State} (d : Bool) (h : s.bitIndex.toNat ≠ 47) :
    (edge d s).pub = s.pub ∧ (edge d s).sampleValid = s.sampleValid := by
  rcases edge_cases d s with ⟨-, heq⟩ | ⟨-, -, heq⟩ | ⟨-, hlast, -⟩
  · rw [heq]; exact ⟨rfl, rfl⟩
  · rw [heq]; exact ⟨rfl, rfl⟩
  · exact absurd (toNat_index_of_last hlast).1 h

theorem runAll_pair {i j : Instr} {s t : State} (h : exec i s = .next t) : runAll [i, j] s = runAll [j] t := by
  rw [runAll, h]

theorem runAll_single {i : Instr} {s t : State} (h : exec i s = .next t) : runAll [i] s = .next t := by
  simp only [runAll, h]

/-- Settles O27: in Idle the source is disarmed and the request arms it at index 0; in Reading it is armed and the
close disarms it. -/
theorem tickAndEdgeDueTogether : Obligations.TickAndEdgeDueTogether := by
  refine ⟨fun s d hinv hidle => ⟨⟨tickIdle s, ?_, ?_⟩, ⟨edge d (tickIdle s), ?_, ?_⟩⟩,
    fun s d hinv hreading => ⟨⟨tickReading (edge d s), ?_, rfl, ?_, ?_, ?_⟩, ?_⟩, fun w hw => ⟨?_, ?_⟩⟩
  · rw [runAll_pair (exec_edgeOp d s), edge_of_disarmed d (hinv.edgeArmed_of_idle hidle)]
    exact runAll_single (exec_tickIdle s)
  · simp [tickIdle_eq]
  · rw [runAll_pair (exec_tickIdle s)]
    exact runAll_single (exec_edgeOp d _)
  · rw [edge_tickIdle]
    simp [tickIdle_eq, packMemory_getLsbD [] 0 _ d (by decide)]
  · rw [runAll_pair (exec_edgeOp d s)]
    exact runAll_single (exec_tickReading _)
  · exact edge_stores d (hinv.armedIff.2 hreading)
  · exact edge_publishes d (hinv.armedIff.2 hreading)
  · exact edge_publishes_nothing d
  · rw [runAll_pair (exec_tickReading s), runAll_single (exec_edgeOp d _), edge_of_disarmed d rfl,
      runAll_single (exec_tickReading s)]
  · exact exists_serialOrder _ _ (by rw [hw])
  · exact exists_serialOrder _ _ (by rw [hw]; exact .swap _ _ _)

end Sys2Proof.Machine
end

section
/-!
PROOF. The contexts (60_exceptions.md section 7, R160): what the operations of each context write.
-/
namespace Sys2Proof.Machine

/-- What the timer context may do in the operation `i`. -/
def TimerWrites (i : Instr) (s t : State) : Prop :=
  t.pub = s.pub ∧ (t.sampleValid = s.sampleValid ∨ t.sampleValid = false) ∧
  (t.bitIndex = s.bitIndex ∨ t.bitIndex = 0) ∧ (t.complete = s.complete ∨ t.complete = false) ∧
  (opensWindow s i ∨ i = .frameReset → ∀ k, Memory.byte t.wf k = 0) ∧
  (¬ opensWindow s i → i ≠ .frameReset → t.wf = s.wf) ∧
  t.registered = s.registered

/-- What the edge context may do in the operation `i`. -/
def EdgeWrites (i : Instr) (s t : State) : Prop :=
  t.phase = s.phase ∧ t.timerTop = s.timerTop ∧ t.timerCnt = s.timerCnt ∧
  t.edgeArmed = s.edgeArmed ∧ t.timingOut = s.timingOut ∧ t.registered = s.registered ∧
  (t.sampleValid = s.sampleValid ∨ t.sampleValid = true) ∧
  (t.complete = s.complete ∨ t.complete = true) ∧
  (t.bitIndex = s.bitIndex ∨ t.bitIndex.toNat = s.bitIndex.toNat + 1) ∧
  (∀ d, i = edgeOp d → s.edgeArmed = true → s.bitIndex.toNat < 48 →
    storesBit s.wf t.wf s.bitIndex.toNat d) ∧
  (∀ d, i = edgeOp d → s.edgeArmed = false ∨ 48 ≤ s.bitIndex.toNat → t.wf = s.wf) ∧
  (∀ k v, i = .pack k v → storesBit s.wf t.wf k.toNat v) ∧
  ((∃ w, i = .decode w) ∨ i = .publish ∨ i = .notifyValid → t.wf = s.wf) ∧
  (t.pub = s.pub ∨ t.pub = Memory.image t.wf)

@[simp] theorem edgeOp_false : edgeOp false = .edge0 := rfl
@[simp] theorem edgeOp_true : edgeOp true = .edge1 := rfl

theorem edgeOp_inj : ∀ {d d' : Bool}, edgeOp d = edgeOp d' → d = d' := by decide

theorem opensWindow_cnt_iff (s : State) :
    opensWindow s .cnt ↔ s.phase = .idle ∧ s.timerTop.toNat ≤ s.timerCnt.toNat + 1 := by
  simp [opensWindow]

/-! ## The timer context -/

theorem timerWrites_of_kept {i : Instr} {s t : State} (hopens : ¬ opensWindow s i) (hi : i ≠ .frameReset)
    (hs : t.sampling = s.sampling) (hr : t.registered = s.registered) : TimerWrites i s t := by
  obtain ⟨hwf, hidx, hc, hpub, hv⟩ := sampling_eq_iff.1 hs
  exact ⟨hpub, .inl hv, .inl hidx, .inl hc, fun h => absurd h (not_or.2 ⟨hopens, hi⟩), fun _ _ => hwf, hr⟩

theorem timerWrites_of_cleared {i : Instr} {s t : State} (hi : opensWindow s i ∨ i = .frameReset)
    (hs : t.sampling = ([], 0, false, s.pub, s.sampleValid) ∨ t.sampling = ([], 0, false, s.pub, false))
    (hr : t.registered = s.registered) : TimerWrites i s t := by
  have hall : t.wf = [] ∧ t.bitIndex = 0 ∧ t.complete = false ∧ t.pub = s.pub ∧
      (t.sampleValid = s.sampleValid ∨ t.sampleValid = false) := by
    simpa only [sampling_eq_iff, ← and_or_left] using hs
  obtain ⟨hwf, hidx, hc, hpub, hv⟩ := hall
  exact ⟨hpub, hv, .inr hidx, .inr hc, fun _ k => by rw [hwf]; rfl,
    fun h h' => absurd hi (not_or.2 ⟨h, h'⟩), hr⟩

theorem tickIdle_timerWrites {i : Instr} {s : State} (h : opensWindow s i) : TimerWrites i s (tickIdle s) := by
  rw [tickIdle_eq]
  exact timerWrites_of_cleared (.inl h) (.inr rfl) rfl

theorem countTick_timerWrites (s : State) : TimerWrites .cnt s (countTick s) := by
  by_cases hexp : s.timerTop.toNat ≤ s.timerCnt.toNat + 1
  · rw [countTick_of_expiry hexp]
    cases hp : s.phase with
    | idle =>
      rw [tick_of_idle hp]
      exact tickIdle_timerWrites ((opensWindow_cnt_iff s).2 ⟨hp, hexp⟩)
    | reading =>
      rw [tick_of_reading hp]
      exact timerWrites_of_kept (by simp [opensWindow_cnt_iff, hp]) (by simp) rfl rfl
  · rw [countTick_of_running (by omega)]
    exact timerWrites_of_kept (by simp [opensWindow_cnt_iff, hexp]) (by simp) rfl rfl

theorem exec_timerWrites {i : Instr} {s t : State} (h : exec i s = .next t)
    (hi : contextOf i = some .timer) : TimerWrites i s t := by
  cases i with
  | cnt => cases h; exact countTick_timerWrites s
  | tickIdle => cases h; exact tickIdle_timerWrites (.inl rfl)
  | tickReading | notifyInvalid =>
    cases h
    exact timerWrites_of_kept (by simp [opensWindow]) (by simp) rfl rfl
  | frameReset => cases h; exact timerWrites_of_cleared (.inr rfl) (.inl rfl) rfl
  | _ => cases hi

/-! ## The edge context -/

theorem exec_pack_next {k : BitVec 6} {v : Bool} {s t : State} (h : exec (.pack k v) s = .next t) :
    k.toNat < Config.nBits ∧ t = pack k.toNat v s := by
  by_cases hk : inMap k.toNat = true
  · rw [exec_pack_of_inMap v s hk] at h
    cases h
    exact ⟨of_decide_eq_true hk, rfl⟩
  · simp [exec, execPack, hk] at h

theorem edge_edgeWrites (d : Bool) (s : State) : EdgeWrites (edgeOp d) s (edge d s) := by
  have hstored : ∀ d', edgeOp d = edgeOp d' → s.edgeArmed = true → s.bitIndex.toNat < 48 →
      storesBit s.wf (edge d s).wf s.bitIndex.toNat d' := fun d' h ha hlt =>
    edgeOp_inj h ▸ (edge_stores d ha hlt).1
  have hignored : ∀ d', edgeOp d = edgeOp d' → s.edgeArmed = false ∨ 48 ≤ s.bitIndex.toNat →
      (edge d s).wf = s.wf := fun _ _ h => by rw [edge_of_ignored d ((accepts_eq_false_iff s).2 h)]
  have hpack : ∀ k v, edgeOp d = .pack k v → storesBit s.wf (edge d s).wf k.toNat v := by
    cases d <;> simp
  have hothers : (∃ w, edgeOp d = .decode w) ∨ edgeOp d = .publish ∨ edgeOp d = .notifyValid →
      (edge d s).wf = s.wf := by
    cases d <;> simp
  rcases edge_cases d s with ⟨-, h⟩ | ⟨-, hi, h⟩ | ⟨-, hi, h⟩ <;> rw [h] at hstored hignored hpack hothers ⊢
  · exact ⟨rfl, rfl, rfl, rfl, rfl, rfl, .inl rfl, .inl rfl, .inl rfl, hstored, hignored, hpack, hothers,
      .inl rfl⟩
  · exact ⟨rfl, rfl, rfl, rfl, rfl, rfl, .inl rfl, .inl rfl, .inr (toNat_succ_index (by omega)), hstored,
      hignored, hpack, hothers, .inl rfl⟩
  · exact ⟨rfl, rfl, rfl, rfl, rfl, rfl, .inr rfl, .inr rfl, .inr (toNat_succ_index (by omega)), hstored,
      hignored, hpack, hothers, .inr rfl⟩

theorem exec_edgeWrites {i : Instr} {s t : State} (h : exec i s = .next t)
    (hi : contextOf i = some .edge) : EdgeWrites i s t := by
  cases i with
  | edge0 => cases h; exact edge_edgeWrites false s
  | edge1 => cases h; exact edge_edgeWrites true s
  | pack k v =>
    obtain ⟨hk, rfl⟩ := exec_pack_next h
    simpa [EdgeWrites] using packMemory_storesBit s.wf k.toNat v hk
  | decode w | publish | notifyValid =>
    cases h
    simp [EdgeWrites]
  | _ => cases hi

/-! ## The consumer -/

theorem exec_consumerWrites {i : Instr} {s t : State} (h : exec i s = .next t)
    (hi : contextOf i = some .consumer) : t = { s with trace := t.trace, registered := t.registered } := by
  cases i with
  | read | validq => cases h; rfl
  | regcb => rw [(exec_regcb_next h).2.2]
  | _ => cases hi

/-- Settles O39: one lemma for each context. -/
theorem contextsWriteOnlyWhatTheyOwn : Obligations.ContextsWriteOnlyWhatTheyOwn := fun _ _ _ h =>
  ⟨exec_timerWrites h, exec_edgeWrites h, exec_consumerWrites h⟩

end Sys2Proof.Machine
end

section
/-!
PROOF. A reading phase (41_edge_sampler.md, 42_frame_codec.md section 3, 60_exceptions.md section 1): what stands in
the state after a request and the operations of its window, as a function of the edges alone.
-/
namespace Sys2Proof.Machine

/-- `t` stands in the reading phase that a request has opened in `s`, after edges with the levels `bits` and after
`n` prescaled ticks. -/
structure WindowState (s : State) (bits : List Bool) (n : Nat) (t : State) : Prop where
  phase       : t.phase = .reading
  armed       : t.edgeArmed = true
  timerTop    : t.timerTop = s.params.tRead
  timerCnt    : t.timerCnt.toNat = n
  bitIndex    : t.bitIndex.toNat = min bits.length 48
  image       : ∀ i, (Memory.image t.wf).getLsbD i = (bits.take 48).getD i false
  complete    : t.complete = decide (48 ≤ bits.length)
  pub         : t.pub = if 48 ≤ bits.length then Memory.image t.wf else s.pub
  sampleValid : t.sampleValid = decide (48 ≤ bits.length)
  notified    : t.trace.count .notifyValid =
    s.trace.count .notifyValid + if 48 ≤ bits.length then 1 else 0

/-! ## The operations of a window -/

theorem tickIdle_windowState (s : State) : WindowState s [] 0 (tickIdle s) := by
  rw [tickIdle_eq]
  constructor <;> simp

theorem getD_concat (bits : List Bool) (d : Bool) (i : Nat) :
    (bits ++ [d]).getD i false = (bits.getD i false || (decide (i = bits.length) && d)) := by
  rcases Nat.lt_trichotomy i bits.length with h | rfl | h
  · rw [List.getD_append _ _ _ _ h, decide_eq_false h.ne, Bool.false_and, Bool.or_false]
  · simp
  · rw [List.getD_eq_default _ _ h.le, List.getD_eq_default _ _ (by simpa using h), decide_eq_false h.ne']
    rfl

namespace WindowState
variable {s t : State} {bits : List Bool} {n : Nat}

/-- The image gains the level of an edge that is stored. -/
theorem image_pack (h : WindowState s bits n t) (hlt : bits.length < 48) (d : Bool) (i : Nat) :
    (Memory.image (packMemory t.bitIndex.toNat d t.wf)).getLsbD i = ((bits ++ [d]).take 48).getD i false := by
  have hidx : t.bitIndex.toNat = bits.length := by rw [h.bitIndex]; omega
  rw [hidx, packMemory_getLsbD _ _ _ _ hlt, h.image, List.take_of_length_le hlt.le,
    List.take_of_length_le (by simpa using hlt), getD_concat]

/-- Every edge counts, but after the 48th it changes nothing (R100, conflict C1). -/
theorem after_edge (h : WindowState s bits n t) (d : Bool) : WindowState s (bits ++ [d]) n (edge d t) := by
  have hidx := h.bitIndex
  have hlen : (bits ++ [d]).length = bits.length + 1 := List.length_append
  rcases edge_cases d t with ⟨hacc, heq⟩ | ⟨-, hi, heq⟩ | ⟨-, hi, heq⟩
  · have hfull : 48 ≤ bits.length := by
      have := ((accepts_eq_false_iff t).1 hacc).resolve_left (by simp [h.armed])
      simp only [Config.nBits] at this
      omega
    rw [heq]
    exact { h with
      bitIndex := by rw [hidx, hlen]; omega
      image := by rw [List.take_append_of_le_length hfull]; exact h.image
      complete := by rw [h.complete, hlen]; simp; omega
      pub := by rw [h.pub, hlen, if_pos hfull, if_pos (by omega)]
      sampleValid := by rw [h.sampleValid, hlen]; simp; omega
      notified := by rw [h.notified, hlen, if_pos hfull, if_pos (by omega)] }
  · have hlt : bits.length + 1 < 48 := by simp only [Config.nBits] at hi; omega
    rw [heq]
    exact { h with
      bitIndex := by rw [toNat_succ_index (by omega), hlen]; omega
      image := h.image_pack (by omega) d
      complete := by rw [h.complete, hlen]; simp; omega
      pub := by rw [h.pub, hlen, if_neg (by omega), if_neg (by omega)]
      sampleValid := by rw [h.sampleValid, hlen]; simp; omega
      notified := by rw [h.notified, hlen, if_neg (by omega), if_neg (by omega)] }
  · have hlt : bits.length + 1 = 48 := by simp only [Config.nBits] at hi; omega
    rw [heq]
    exact { h with
      bitIndex := by rw [toNat_succ_index (by omega), hlen]; omega
      image := h.image_pack (by omega) d
      complete := by rw [hlen, hlt]; rfl
      pub := by rw [hlen, if_pos hlt.ge]
      sampleValid := by rw [hlen, hlt]; rfl
      notified := by
        rw [hlen, if_pos hlt.ge, List.count_append, h.notified, if_neg (by omega)]
        rfl }

/-- A value is returned (R113). -/
theorem after_return (h : WindowState s bits n t) (r : Result) : WindowState s bits n (emit (.returned r) t) :=
  { h with notified := by rw [emit_trace, List.count_append, h.notified]; rfl }

/-- A `CNT` that does not expire the timer (R85). -/
theorem after_cnt (h : WindowState s bits n t) (hn : n + 1 < s.params.tRead.toNat) :
    WindowState s bits (n + 1) (countTick t) := by
  have hrun : t.timerCnt.toNat + 1 < t.timerTop.toNat := by rw [h.timerCnt, h.timerTop]; exact hn
  rw [countTick_of_running hrun]
  exact { h with timerCnt := (toNat_succ_count hrun).trans (by rw [h.timerCnt]) }

theorem exec_next (h : WindowState s bits n t) {i : Instr} (hi : inWindow i = true)
    (hn : [i].count .cnt = 0 ∨ n + [i].count .cnt < s.params.tRead.toNat) :
    ∃ t', exec i t = .next t' ∧ WindowState s (bits ++ edgeBits [i]) (n + [i].count .cnt) t' := by
  cases i with
  | edge0 => exact ⟨_, exec_edgeOp false t, h.after_edge false⟩
  | edge1 => exact ⟨_, exec_edgeOp true t, h.after_edge true⟩
  | read => exact ⟨_, exec_read t, by simpa [edgeBits] using h.after_return _⟩
  | validq => exact ⟨_, exec_validq t, by simpa [edgeBits] using h.after_return _⟩
  | nop => exact ⟨_, exec_nop t, by simpa [edgeBits] using h⟩
  | cnt => exact ⟨_, exec_cnt t, by simpa [edgeBits] using h.after_cnt (by simpa using hn)⟩
  | _ => cases hi

end WindowState

theorem edgeBits_cons (i : Instr) (ops : List Instr) : edgeBits (i :: ops) = edgeBits [i] ++ edgeBits ops := by
  cases i <;> rfl

/-- The operations of a window one after another. -/
theorem WindowState.runAll_next {ops : List Instr} {s t : State} {bits : List Bool} {n : Nat}
    (h : WindowState s bits n t) (hops : ops.all inWindow = true)
    (hn : ops.count .cnt = 0 ∨ n + ops.count .cnt < s.params.tRead.toNat) :
    ∃ t', runAll ops t = .next t' ∧ WindowState s (bits ++ edgeBits ops) (n + ops.count .cnt) t' := by
  induction ops generalizing t bits n with
  | nil => exact ⟨t, rfl, by simpa [edgeBits] using h⟩
  | cons i ops ih =>
    rw [List.all_cons, Bool.and_eq_true] at hops
    obtain ⟨hi, hops⟩ := hops
    have hcount : (i :: ops).count .cnt = [i].count .cnt + ops.count .cnt :=
      List.count_append (l₁ := [i])
    obtain ⟨u, hu, hwindow⟩ := h.exec_next hi (by omega)
    obtain ⟨t', ht', hwindow'⟩ := ih hwindow hops (by omega)
    refine ⟨t', by simp only [runAll, hu, ht'], ?_⟩
    rwa [edgeBits_cons, hcount, ← List.append_assoc, ← Nat.add_assoc]

/-! ## Its request and its close -/

theorem exec_of_opensWindow {s : State} {i : Instr} (h : opensWindow s i) : exec i s = .next (tickIdle s) := by
  rcases h with rfl | ⟨rfl, hidle, hexp⟩
  · exact exec_tickIdle s
  · rw [exec_cnt_of_expiry hexp, exec_select_tick, tick_of_idle hidle]

theorem WindowState.exec_of_closesWindow {s t : State} {bits : List Bool} {ops : List Instr} {i : Instr}
    (h : WindowState s bits (ops.count .cnt) t) (hi : closesWindow s ops i) :
    exec i t = .next (tickReading t) := by
  rcases hi with rfl | ⟨rfl, hlast⟩
  · exact exec_tickReading t
  · have hexp : t.timerTop.toNat ≤ t.timerCnt.toNat + 1 := by rw [h.timerTop, h.timerCnt, hlast]
    rw [exec_cnt_of_expiry hexp, exec_select_tick, tick_of_reading h.phase]

/-- The state after a request and a window. -/
theorem runAll_window {s : State} {request : Instr} {ops : List Instr} (hopen : opensWindow s request)
    (hops : ops.all inWindow = true) (hfit : countsFit s ops) :
    ∃ t, runAll (request :: ops) s = .next t ∧ WindowState s (edgeBits ops) (ops.count .cnt) t := by
  obtain ⟨t, ht, hwindow⟩ := (tickIdle_windowState s).runAll_next hops (by rwa [Nat.zero_add])
  refine ⟨t, by simp only [runAll, exec_of_opensWindow hopen, ht], ?_⟩
  rwa [List.nil_append, Nat.zero_add] at hwindow

/-! ## The obligations -/

theorem length_streamOf (v : Frame) : (streamOf v).length = 48 := by simp [streamOf, Config.nBits]

theorem getD_streamOf (v : Frame) {i : Nat} (hi : i < 48) : (streamOf v).getD i false = v.getLsbD i := by
  simp [streamOf, Config.nBits, hi]

/-- Settles O25: the window has 48 edges or more, and the first 48 of them are the image. -/
theorem fullFrameIsPublishedOnce : Obligations.FullFrameIsPublishedOnce := by
  intro s v request ops hopen hops hfit hbits
  obtain ⟨t, ht, h⟩ := runAll_window hopen hops hfit
  have hfull : 48 ≤ (edgeBits ops).length := by
    have := (congrArg List.length hbits).trans (length_streamOf v)
    rw [List.length_take] at this
    omega
  have himage : Memory.image t.wf = v := BitVec.eq_of_getLsbD_eq fun i hi => by
    rw [h.image, hbits, getD_streamOf v hi]
  exact ⟨t, ht, himage, by rw [h.pub, if_pos hfull, himage], by rw [h.bitIndex, Nat.min_eq_right hfull],
    by rw [h.complete, decide_eq_true hfull], by rw [h.sampleValid, decide_eq_true hfull], h.phase,
    by rw [h.notified, if_pos hfull]⟩

/-- Settles O26: with fewer than 48 edges the window leaves `pub` alone, and its close changes neither the frame
nor the sample. -/
theorem truncatedFrameIsDiscarded : Obligations.TruncatedFrameIsDiscarded := by
  intro s request close ops hopen hops hfit hclose hshort
  obtain ⟨t, ht, h⟩ := runAll_window hopen hops hfit
  have hnot : ¬ 48 ≤ (edgeBits ops).length := Nat.not_le.2 hshort
  have hpub : t.pub = s.pub := by rw [h.pub, if_neg hnot]
  refine ⟨tickReading t, ?_, hpub, ?_, ?_, rfl, rfl, ?_, fun i => ?_, ?_, tickIdle (tickReading t),
    exec_tickIdle _, ?_, ?_, ?_⟩
  · rw [runAll_append, ht]
    exact runAll_single (h.exec_of_closesWindow hclose)
  · exact h.sampleValid.trans (decide_eq_false hnot)
  · exact h.complete.trans (decide_eq_false hnot)
  · exact h.bitIndex.trans (Nat.min_eq_left hshort.le)
  · exact (h.image i).trans (by rw [List.take_of_length_le hshort.le])
  · exact h.notified.trans (by rw [if_neg hnot, Nat.add_zero])
  · rw [tickIdle_eq, image_nil]
  · rw [tickIdle_eq]
  · rw [tickIdle_pub]; exact hpub

end Sys2Proof.Machine
end
